-- ==== Sys2Proof/Word.lean ====
section
/-! DEFINITION. The words the DPA core moves: 32-bit words, bytes, register numbers, and the scaled
value (00_scope.md rules R10, R13, R14). -/

namespace Sys2Proof

/-- A 32-bit word: a command, a register, a word on the host bus (R10). -/
abbrev Word := BitVec 32

/-- One byte lane of a word (R67). -/
abbrev Byte := BitVec 8

/-- A host byte address, 24 bits wide (R10, R60). -/
abbrev HostAddr := BitVec 24

/-- The number of a scaled-value register, 4 bits (R91, R93). -/
abbrev Reg := BitVec 4

/-- A scaled value `{m, s}`: a 32-bit two's complement mantissa and an 8-bit two's complement
scale (R10, R14). Equality is equality of both fields, as R14 says. -/
structure Scaled where
  /-- The mantissa. -/
  m : BitVec 32
  /-- The decimal scale. -/
  s : BitVec 8
deriving DecidableEq, Repr, Inhabited

/-- The additive identity `{0, 0}` the source names (R14). -/
def Scaled.zero : Scaled := ⟨0#32, 0#8⟩

/-- The scaled value of two integers, each cut to its field. -/
def Scaled.ofInts (m s : Int) : Scaled := ⟨BitVec.ofInt 32 m, BitVec.ofInt 8 s⟩

end Sys2Proof
end

