-- ==== Sys2Proof/Config.lean ====
section
/-! DEFINITION. The configuration the core is built for (00_scope.md rules R8, R9) and the free
values the spec leaves open (93_implementation_defined.md). The configuration is a field of State
that no step changes, so a statement about every state is one about every configuration. -/

namespace Sys2Proof

/-- The configuration parameters of R9 but `BIN_REDUCE`, which is a function and stands below. -/
structure Config where
  /-- Channel count. -/
  C : Nat
  /-- Block size, samples per channel per block. -/
  B : Nat
  /-- FIR tap count, the capacity of each delay line. -/
  T : Nat
  /-- Transform size. -/
  M : Nat
  /-- Size of the angle tables. -/
  L : Nat
  /-- Decimal places used by raw-sample conversion (`DEC`). -/
  dec : Nat
  /-- Width of a raw sample code (`RAW_BITS`). -/
  rawBits : Nat
  /-- The DC offset of the raw sample domain (`DC_OFFSET`). -/
  dcOffset : Nat
  /-- `DELAY[ch]`. -/
  delay : List Word
  /-- `COEF[i]`. -/
  coef : List Scaled
  /-- `COS[j]`. -/
  cos : List Scaled
  /-- `SIN[j]`. -/
  sin : List Scaled
deriving DecidableEq, Repr

/-- The legal ranges of R9, and each table of its size (R37). -/
abbrev Config.Legal (c : Config) : Prop :=
  (1 ≤ c.C ∧ c.C ≤ 65536) ∧ (1 ≤ c.B ∧ c.B ≤ 65536) ∧ c.C * c.B ≤ 131072 ∧
  (1 ≤ c.T ∧ c.T ≤ 65536) ∧ c.C * c.T ≤ 131072 ∧
  (1 ≤ c.M ∧ c.M ≤ 65536) ∧ (1 ≤ c.L ∧ c.L ≤ 65536) ∧
  c.dec ≤ 127 ∧ (1 ≤ c.rawBits ∧ c.rawBits ≤ 31) ∧ c.dcOffset ≤ 2147483647 ∧
  c.delay.length = c.C ∧ c.coef.length = c.T ∧ c.cos.length = c.L ∧ c.sin.length = c.L

/-- The example configuration EX1 of 95_test_vectors.md: the one `State.reset` takes, since the
source gives no values. DESIGN CHOICE, unsafe (assumption 1): no value of it is the repository's. -/
def Config.ex1 : Config where
  C := 2
  B := 4
  T := 3
  M := 4
  L := 4
  dec := 2
  rawBits := 12
  dcOffset := 2048
  delay := [0, 1]
  coef := [.ofInts 5 (-1), .ofInts 3 (-1), .ofInts 2 (-1)]
  cos := [.ofInts 1 0, .ofInts 0 0, .ofInts (-1) 0, .ofInts 0 0]
  sin := [.ofInts 0 0, .ofInts 1 0, .ofInts 0 0, .ofInts (-1) 0]

/-- `BIN_REDUCE` (R195): the integer delivered for one bin, an open parameter, "a total function of
the two values alone". Free value (assumption 8). -/
opaque Config.binReduce : Scaled → Scaled → Word

/-- The byte at an address of RAW, STREAM, OUT or BIN that nothing has written since the reset
numbered by the first argument (R41, I8, I30). Free value (assumption 3). -/
opaque Config.freeByte : Nat → Nat → Byte

/-- The word a host read of a location in the running write set returns (R70, R239, I15), a fresh
one for each number. Free value (assumption 5). -/
opaque Config.freeWord : Nat → Word

/-- Which of the phases 1 to 5 a STATUS read shows during a block (R39, I16), counted from 0. Free
value (assumption 6). -/
opaque Config.freePhase : Nat → Fin 5

end Sys2Proof
end

