-- ==== Sys2Proof/Machine/State.lean ====
section
/-! DEFINITION. The state of the DPA core (10_state.md), the steps of its agents (44_pipeline.md rule
R188), and the state right after reset (70_reset_and_hazards.md rule R230). -/

namespace Sys2Proof.Machine

/-- The sticky event flags of STATUS, by name (R24). -/
inductive Flag where
  /-- Bit 7: a command or block completed, or an illegal command was rejected. -/
  | done
  /-- Bit 8: `multiply` took the divide-by-1000 path. -/
  | mulRescale
  /-- Bit 9: the divided product still did not fit. -/
  | mulWrap
  /-- Bit 10: `add` skipped alignment. -/
  | addSkip
  /-- Bit 11: the alignment product did not fit. -/
  | alignWrap
  /-- Bit 12: a mantissa sum did not fit. -/
  | addWrap
  /-- Bit 13: `fromInteger`'s product did not fit. -/
  | convWrap
  /-- Bit 14: `toInteger` discarded a non-zero fraction. -/
  | tointLoss
  /-- Bit 15: `toInteger`'s product did not fit. -/
  | tointWrap
  /-- Bit 16: a `multiply` result scale did not fit 8 bits. -/
  | scaleWrap
  /-- Bit 17: the beamformer omitted a channel. -/
  | bfOmit
  /-- Bit 18: the beamformer's division left a remainder. -/
  | bfDivloss
  /-- Bit 19: an illegal command word. -/
  | ill
  /-- Bit 20: CMD written while it could not be taken. -/
  | cmdovr
  /-- Bit 21: a data write dropped because the core was busy. -/
  | hzd
  /-- Bit 22: a producer event while `blk_req = 0`, or an index out of range. -/
  | overrun
  /-- Bit 23: a write to an unmapped or read-only address. -/
  | addr
deriving DecidableEq, Repr

/-- A set of sticky flags: bit `k` is STATUS bit `7 + k` (R24). STATUS bits outside 23:7 hold no
flag, so the type has no room for them. -/
abbrev Flags := BitVec 17

/-- The operation the sequencer holds (R38): a latched command word, or a block the producer
started. -/
inductive Op where
  | command (w : Word)
  | autoblock
deriving DecidableEq, Repr

/-- The sequencer's state (R38, R187). `op` exists exactly while the sequencer is busy. -/
inductive Fsm where
  /-- Reset initialisation runs. -/
  | init
  /-- Waiting. -/
  | idle
  /-- An accepted command or started block runs. -/
  | busy (op : Op)
deriving DecidableEq, Repr

/-- One word on the consumer port: `bin_data` and `bin_last` with `bin_valid = 1` (R194). -/
structure Emitted where
  data : Word
  last : Bool
deriving DecidableEq, Repr

/-- One atomic step of one agent (R19, R188, R224). -/
inductive Event where
  /-- `MemWrite(addr, 4, w)` by the host. -/
  | hostWrite (addr : HostAddr) (w : Word)
  /-- `MemRead(addr, 4)` by the host. -/
  | hostRead (addr : HostAddr)
  /-- A producer RAW write `(raw_idx, raw_data)` (R192). -/
  | rawWrite (idx : Nat) (w : Word)
  /-- The producer's `blk_done` (R193). -/
  | blkDone
  /-- `rst_n` asserted (R230). -/
  | hardReset
  /-- The sequencer's turn: it takes its enabled step, if it has one. -/
  | sequencer
deriving DecidableEq, Repr

/-- Memory as a list of (address, byte) cells at the host addresses of R62, in the canonical form
`Memory.wf` of Machine/Ops.lean. -/
abbrev Memory := List Host.Cell

/-- The state of the core (10_state.md), with the model's own fields at the end. -/
structure State where
  /-- The configuration (R8, R9, R27, R37): no step changes it. -/
  cfg : Config
  /-- CTRL.AUTO (R22). -/
  auto : Bool
  /-- CTRL.IE (R22). -/
  ie : Bool
  /-- CTRL.IEE (R22). -/
  iee : Bool
  /-- The sticky flags of STATUS (R24). -/
  flags : Flags
  /-- The CMD read-back value (R26). -/
  cmd : Word
  /-- CURSOR, the FIR write cursor (R28). -/
  cursor : Word
  /-- BLKCNT (R29). -/
  blkcnt : Word
  /-- V0 to V15 (R30). -/
  v : Vector Scaled 16
  /-- RAW, STREAM, DL, OUT and BIN (R32 to R36), by host address. -/
  mem : Memory
  /-- PENDING (R38). -/
  pending : Bool
  /-- `fsm`, with `op` while it is BUSY (R38). -/
  fsm : Fsm
  /-- EVT, the shadow of the flags the running operation raises (R25, R38). -/
  evt : Flags
  /-- The consumer trace, oldest word first (R40). -/
  trace : List Emitted
  /-- Model's own: the agents' steps still to come, in order (assumption 7). -/
  schedule : List Event
  /-- Model's own: the words host reads returned, oldest first (assumption 13). -/
  readLog : List Word
  /-- Model's own: the counter free values are drawn with (assumption 5). -/
  fresh : Nat
  /-- Model's own: which free contents unwritten memory has (assumption 3). -/
  memSeed : Nat
deriving DecidableEq, Repr

/-- Reasons a step can fault. None: "No command, no block and no host transaction raises an
exception, traps, halts the core" (R210), and 93_implementation_defined.md says no behaviour of the
core is a fault. Safe. -/
inductive Fault where
deriving DecidableEq, Repr

/-- Reasons a step can be refused. -/
inductive Refusal where
  /-- Raised by an arm of `exec` for a command that has no meaning yet: none is left. Safe. -/
  | notModelled (mnemonic : String)
deriving DecidableEq, Repr

/-- The core right after the reset step of R230 at power-on, for a configuration: every register at
its value of R41, `fsm = INIT`, memory with nothing listed, an empty consumer trace. -/
def State.resetWith (cfg : Config) : State where
  cfg := cfg
  auto := false
  ie := false
  iee := false
  flags := 0
  cmd := 0
  cursor := 0
  blkcnt := 0
  v := Vector.replicate 16 Scaled.zero
  mem := []
  pending := false
  fsm := .init
  evt := 0
  trace := []
  schedule := []
  readLog := []
  fresh := 1
  memSeed := 0

/-- The core right after reset, built for the configuration EX1 (assumption 1). -/
def State.reset : State := State.resetWith Config.ex1

end Sys2Proof.Machine
end

