-- ==== Sys2Proof/Machine/Flags.lean ====
section
/-! DEFINITION. Flag computations (10_state.md rules R24, R25) and the wrapping they test
(00_scope.md rules R11, R12). -/

namespace Sys2Proof.Machine

/-- The STATUS bit of a flag (R24, R211). -/
def Flag.bit : Flag → Nat
  | .done => 7
  | .mulRescale => 8
  | .mulWrap => 9
  | .addSkip => 10
  | .alignWrap => 11
  | .addWrap => 12
  | .convWrap => 13
  | .tointLoss => 14
  | .tointWrap => 15
  | .scaleWrap => 16
  | .bfOmit => 17
  | .bfDivloss => 18
  | .ill => 19
  | .cmdovr => 20
  | .hzd => 21
  | .overrun => 22
  | .addr => 23

/-- The one-flag set of a flag: bit `Flag.bit f - 7`. -/
def Flag.mask (f : Flag) : Flags := 1#17 <<< (f.bit - 7)

/-- Whether a flag is in a set. -/
def Flag.isIn (f : Flag) (fs : Flags) : Bool := fs.getLsbD (f.bit - 7)

/-- `if c: flag(f)`: the set a single test raises. -/
def flagIf (c : Bool) (f : Flag) : Flags := if c then f.mask else 0#17

/-- `flag(F)` for the flags of a set inside an operation: into EVT (R15, R115). -/
def State.raise (s : State) (fs : Flags) : State := { s with evt := s.evt ||| fs }

/-- `flag(F)` in a host or producer step, or at completion: into STATUS (R15). -/
def State.setFlags (s : State) (fs : Flags) : State := { s with flags := s.flags ||| fs }

/-- `fits32(x)` (R12). -/
def fits32 (x : Int) : Bool := decide (-2147483648 ≤ x ∧ x ≤ 2147483647)

/-- Whether a scale fits 8 bits (R114). -/
def fits8 (x : Int) : Bool := decide (-128 ≤ x ∧ x ≤ 127)

/-- `wrap32(x)` as a 32-bit pattern (R12). -/
def wrap32 (x : Int) : BitVec 32 := BitVec.ofInt 32 x

/-- `wrap8(x)` as an 8-bit pattern (R12). -/
def wrap8 (x : Int) : BitVec 8 := BitVec.ofInt 8 x

/-- `10^k`, exact (R11). -/
def pow10 (k : Nat) : Int := Int.ofNat (10 ^ k)

end Sys2Proof.Machine
end

