-- ==== Sys2Proof/Machine/Ops.lean ====
section
/-! DEFINITION. The named operations over memory and registers, the outputs of the core, reset
(70_reset_and_hazards.md), and the two ways a command ends: completion (44_pipeline.md rule R199)
and the rejection of an illegal word (rule R196), which stands where another machine would take an
exception (60_exceptions.md rules R210, R212). -/

namespace Sys2Proof.Machine

/-! ### Memory as cells -/

/-- Base address of RAW (R62). -/
def rawBase : Nat := 0x100000
/-- Base address of STREAM (R62). -/
def streamBase : Nat := 0x200000
/-- Base address of DL (R62). -/
def dlBase : Nat := 0x300000
/-- Base address of OUT (R62). -/
def outBase : Nat := 0x400000
/-- Base address of BIN (R62). -/
def binBase : Nat := 0x500000
/-- Base address of COEF (R62). -/
def coefBase : Nat := 0x600000
/-- Base address of COS (R62). -/
def cosBase : Nat := 0x700000
/-- Base address of SIN (R62). -/
def sinBase : Nat := 0x800000
/-- Base address of DELAY (R62). -/
def delayBase : Nat := 0x900000
/-- Base of the reserved range above the regions (R62). -/
def reservedBase : Nat := 0xA00000

/-- Whether an address is in the DL region (R62). -/
def inDl (a : Nat) : Bool := decide (dlBase ≤ a ∧ a < outBase)

/-- What an unlisted address reads as: 0 in DL, which reset initialisation clears (R233, assumption
4); elsewhere no value of its own, since the reset content is unspecified (R41, assumption 3). -/
def unlisted (a : Nat) : Option Byte := if inDl a then some 0#8 else none

/-- The byte a cell list holds at an address, if it lists one. -/
def cellAt : Memory → Nat → Option Byte
  | [], _ => none
  | (a', b) :: m, a => if a = a' then some b else cellAt m a

/-- Lists a byte at an address, in address order, over any byte listed there. -/
def putCell : Memory → Nat → Byte → Memory
  | [], a, b => [(a, b)]
  | (a', b') :: m, a, b =>
    if a < a' then (a, b) :: (a', b') :: m
    else if a = a' then (a, b) :: m
    else (a', b') :: putCell m a b

/-- Takes any byte listed at an address out. -/
def dropCell (m : Memory) (a : Nat) : Memory := m.filter (fun c => c.1 ≠ a)

/-- Writes a byte, keeping the canonical form: writing what an unlisted address reads as removes
the cell. -/
def setCell (m : Memory) (a : Nat) (b : Byte) : Memory :=
  if unlisted a = some b then dropCell m a else putCell m a b

/-- The canonical form: addresses strictly rising, and no cell equal to what an unlisted address
reads as. -/
abbrev Memory.wf (m : Memory) : Prop :=
  (m.map Prod.fst).Pairwise (· < ·) ∧ ∀ c ∈ m, unlisted c.1 ≠ some c.2

/-- The byte at a storage address; where nothing is listed and no rule gives a value, the free byte
of the present reset (assumption 3). -/
def readByte (s : State) (a : Nat) : Byte :=
  match cellAt s.mem a with
  | some b => b
  | none =>
    match unlisted a with
    | some b => b
    | none => Config.freeByte s.memSeed a

/-- Writes the byte at a storage address. -/
def writeByte (s : State) (a : Nat) (b : Byte) : State := { s with mem := setCell s.mem a b }

/-- The word at an address, little-endian lanes (R67). -/
def readWord (s : State) (a : Nat) : Word :=
  readByte s (a + 3) ++ readByte s (a + 2) ++ readByte s (a + 1) ++ readByte s a

/-- Writes the word at an address, little-endian lanes (R67). -/
def writeWord (s : State) (a : Nat) (w : Word) : State :=
  writeByte (writeByte (writeByte (writeByte s a (w.extractLsb' 0 8))
    (a + 1) (w.extractLsb' 8 8)) (a + 2) (w.extractLsb' 16 8)) (a + 3) (w.extractLsb' 24 8)

/-! ### Control -/

/-- STATUS.BUSY: `fsm` is BUSY or INIT (R23, R38). -/
def isBusy (s : State) : Bool := decide (s.fsm ≠ .idle)

/-- The `blk_req` output (R191). -/
def blkReq (s : State) : Bool := s.auto && decide (s.fsm = .idle) && !s.pending

/-- The flags that drive `irq` under CTRL.IEE (R213). -/
def errorFlags : List Flag := [.ill, .cmdovr, .hzd, .overrun, .addr]

/-- The `irq` output (R213). -/
def irq (s : State) : Bool :=
  (s.ie && Flag.done.isIn s.flags) || (s.iee && errorFlags.any (fun f => f.isIn s.flags))

/-- The sequencer has no step (R201). -/
def quiescent (s : State) : Bool := decide (s.fsm = .idle) && !(s.auto && s.pending)

/-- Completion, after the operation's pseudocode (R199): EVT is merged into STATUS, DONE is set, and
the sequencer forgets `op` and goes to IDLE. -/
def complete (s : State) : State :=
  { s with flags := s.flags ||| s.evt ||| Flag.done.mask, fsm := .idle }

/-- The rejection of an illegal command word (R97, R196, R212): ILL and DONE at once, nothing else,
and the sequencer is (stays) in IDLE. -/
def rejectIllegal (s : State) : State :=
  { s with flags := s.flags ||| Flag.ill.mask ||| Flag.done.mask, fsm := .idle }

/-- The reset step, hardware or soft (R230, R235): every register but DL takes its value of R41; RAW,
STREAM, OUT and BIN take unspecified contents, drawn anew (assumption 3); the running operation is
abandoned; the consumer trace stays. -/
def applyReset (s : State) : State :=
  { s with
    auto := false
    ie := false
    iee := false
    flags := 0
    cmd := 0
    cursor := 0
    blkcnt := 0
    v := Vector.replicate 16 Scaled.zero
    mem := s.mem.filter (fun c => inDl c.1)
    pending := false
    fsm := .init
    evt := 0
    memSeed := s.fresh
    fresh := s.fresh + 1 }

/-- Reset initialisation completes (R233, R234): every DL entry becomes `{0, 0}`, and the sequencer
goes to IDLE without setting DONE. -/
def finishInit (s : State) : State :=
  { s with mem := s.mem.filter (fun c => !inDl c.1), fsm := .idle }

/-- A command or block is accepted or started (R188, R196). -/
def accept (s : State) (op : Op) : State := { s with fsm := .busy op, evt := 0 }

/-- `cursorAdvance()` (R141). -/
def cursorAdvance (s : State) : State :=
  { s with cursor := BitVec.ofNat 32 ((s.cursor.toNat + 1) % s.cfg.T) }

/-- `BLKCNT <- (BLKCNT + 1) mod 2^32` (R182). -/
def countBlock (s : State) : State := { s with blkcnt := s.blkcnt + 1 }

/-- `emit(w, last)` for a list of words, in order (R15, R194). -/
def emitAll (s : State) (ws : List Emitted) : State := { s with trace := s.trace ++ ws }

end Sys2Proof.Machine
end

