-- ==== Sys2Proof/Machine/Operands.lean ====
section
/-! DEFINITION. Every operand form: V registers (10_state.md rules R30, R31), the entries of the
memories by index (rules R32 to R36, 20_memory.md rules R62, R79), and the configuration tables
(rule R37). -/

namespace Sys2Proof.Machine

/-- `V[r]` (R15, R30). No register is hardwired. -/
def readV (s : State) (r : Reg) : Scaled := s.v[r.toNat]'(r.isLt)

/-- `V[r] <- x` (R15, R30). -/
def writeV (s : State) (r : Reg) (x : Scaled) : State := { s with v := s.v.set r.toNat x r.isLt }

/-- The scaled value whose MANT word is at an address and whose scale is the low byte of the SCALE
word after it (R31). -/
def readScaled (s : State) (a : Nat) : Scaled := ⟨readWord s a, readByte s (a + 4)⟩

/-- Writes the scaled value at an address: five storage bytes (assumption 12). -/
def writeScaled (s : State) (a : Nat) (x : Scaled) : State :=
  writeByte (writeWord s a x.m) (a + 4) x.s

/-- Address of `RAW[ch][n]` (R62). -/
def rawAddr (cfg : Config) (ch n : Nat) : Nat := rawBase + 4 * (ch * cfg.B + n)

/-- Address of `STREAM[ch][n]` (R62). -/
def streamAddr (cfg : Config) (ch n : Nat) : Nat := streamBase + 8 * (ch * cfg.B + n)

/-- Address of `DL[ch][j]` (R62). -/
def dlAddr (cfg : Config) (ch j : Nat) : Nat := dlBase + 8 * (ch * cfg.T + j)

/-- Address of `OUT[n]` (R62). -/
def outAddr (n : Nat) : Nat := outBase + 8 * n

/-- Address of `BIN[k].re` (R62). -/
def binReAddr (k : Nat) : Nat := binBase + 16 * k

/-- Address of `BIN[k].im` (R62). -/
def binImAddr (k : Nat) : Nat := binBase + 16 * k + 8

/-- The `RAW_BITS`-bit code in a word (R32). -/
def rawCode (cfg : Config) (w : Word) : Nat := w.toNat % 2 ^ cfg.rawBits

/-- `RAW[ch][n]`, an unsigned code (R32). -/
def readRaw (s : State) (ch n : Nat) : Nat := rawCode s.cfg (readWord s (rawAddr s.cfg ch n))

/-- A RAW write at an address stores bits `RAW_BITS-1:0` of the word and drops the rest (R32). -/
def writeRaw (s : State) (a : Nat) (w : Word) : State :=
  writeWord s a (BitVec.ofNat 32 (rawCode s.cfg w))

/-- `COEF[i]` (R37). -/
def coefAt (cfg : Config) (i : Nat) : Scaled := cfg.coef.getD i Scaled.zero

/-- `COS[j]` (R37). -/
def cosAt (cfg : Config) (j : Nat) : Scaled := cfg.cos.getD j Scaled.zero

/-- `SIN[j]` (R37). -/
def sinAt (cfg : Config) (j : Nat) : Scaled := cfg.sin.getD j Scaled.zero

/-- `DELAY[ch]`, an unsigned number (R37). -/
def delayAt (cfg : Config) (ch : Nat) : Nat := (cfg.delay.getD ch 0#32).toNat

end Sys2Proof.Machine
end

