-- ==== Sys2Proof/Machine/Dpa.lean ====
section
/-! DEFINITION. Scaled-value arithmetic: the functions of 40_dpa.md rules R110 to R114, each with the
set of flags it raises, and the commands VADD, VMUL, VMAC, VFROMI and VTOI (rules R116 to R120). -/

namespace Sys2Proof.Machine

/-- `fromInteger(v, d)` (R110). -/
def fromInteger (v : Int) (d : Nat) : Scaled × Flags :=
  let p := v * pow10 d
  (⟨wrap32 p, wrap8 (-(d : Int))⟩, flagIf (!fits32 p) .convWrap)

/-- `toInteger(a)` (R111), as a 32-bit pattern. -/
def toInteger (a : Scaled) : BitVec 32 × Flags :=
  if 0 ≤ a.s.toInt then
    let p := a.m.toInt * pow10 a.s.toInt.toNat
    (wrap32 p, flagIf (!fits32 p) .tointWrap)
  else
    let d := pow10 (-a.s.toInt).toNat
    let q := a.m.toInt.tdiv d
    (wrap32 q, flagIf (decide (q * d ≠ a.m.toInt)) .tointLoss)

/-- The unequal-scale case of `add`, with the larger-scale operand first (R112). -/
def addAligned (hi lo : Scaled) : Scaled × Flags :=
  let diff := (hi.s.toInt - lo.s.toInt).toNat
  if 10 < diff then (hi, Flag.addSkip.mask)
  else
    let p := hi.m.toInt * pow10 diff
    let sum := (wrap32 p).toInt + lo.m.toInt
    (⟨wrap32 sum, lo.s⟩, flagIf (!fits32 p) .alignWrap ||| flagIf (!fits32 sum) .addWrap)

/-- `add(a, b)` (R112). -/
def add (a b : Scaled) : Scaled × Flags :=
  if a.s = b.s then
    let sum := a.m.toInt + b.m.toInt
    (⟨wrap32 sum, a.s⟩, flagIf (!fits32 sum) .addWrap)
  else if b.s.toInt < a.s.toInt then addAligned a b
  else addAligned b a

/-- `multiply(a, b)` (R114). -/
def multiply (a b : Scaled) : Scaled × Flags :=
  let p := a.m.toInt * b.m.toInt
  if fits32 p then
    let sc := a.s.toInt + b.s.toInt
    (⟨wrap32 p, wrap8 sc⟩, flagIf (!fits8 sc) .scaleWrap)
  else
    let q := p.tdiv 1000
    let sc := a.s.toInt + b.s.toInt + 3
    (⟨wrap32 q, wrap8 sc⟩,
      Flag.mulRescale.mask ||| flagIf (!fits32 q) .mulWrap ||| flagIf (!fits8 sc) .scaleWrap)

/-- `add(acc, multiply(a, b))`, with the flags of both (R118, R140, R161). -/
def mulAdd (acc a b : Scaled) : Scaled × Flags :=
  let p := multiply a b
  let r := add acc p.1
  (r.1, p.2 ||| r.2)

/-- A sum that starts at `{0, 0}` and takes in the terms `0..n-1` in that order, with the flags of
every step (R140, R161, R170). -/
def accumulate (n : Nat) (term : Scaled → Nat → Scaled × Flags) : Scaled × Flags :=
  (List.range n).foldl
    (fun (r : Scaled × Flags) i => ((term r.1 i).1, r.2 ||| (term r.1 i).2)) (Scaled.zero, 0#17)

/-- VADD (R116): `a <- V[RA]; b <- V[RB]; V[RD] <- add(a, b)`. -/
def execVadd (rd ra rb : Reg) (s : State) : Host.Outcome State Fault Refusal :=
  let r := add (readV s ra) (readV s rb)
  .next (complete ((writeV s rd r.1).raise r.2))

/-- VMUL (R117): `V[RD] <- multiply(V[RA], V[RB])`. -/
def execVmul (rd ra rb : Reg) (s : State) : Host.Outcome State Fault Refusal :=
  let r := multiply (readV s ra) (readV s rb)
  .next (complete ((writeV s rd r.1).raise r.2))

/-- VMAC (R118): `V[RD] <- add(V[RD], multiply(V[RA], V[RB]))`, all read before the write. -/
def execVmac (rd ra rb : Reg) (s : State) : Host.Outcome State Fault Refusal :=
  let r := mulAdd (readV s rd) (readV s ra) (readV s rb)
  .next (complete ((writeV s rd r.1).raise r.2))

/-- VFROMI (R119): `V[RD] <- fromInteger(V[RA].m, D)`; the scale of `V[RA]` is ignored. -/
def execVfromi (rd ra : Reg) (d : BitVec 7) (s : State) : Host.Outcome State Fault Refusal :=
  let r := fromInteger (readV s ra).m.toInt d.toNat
  .next (complete ((writeV s rd r.1).raise r.2))

/-- VTOI (R120): `V[RD] <- { toInteger(V[RA]), 0 }`. -/
def execVtoi (rd ra : Reg) (s : State) : Host.Outcome State Fault Refusal :=
  let r := toInteger (readV s ra)
  .next (complete ((writeV s rd ⟨r.1, 0#8⟩).raise r.2))

end Sys2Proof.Machine
end

