-- ==== Sys2Proof/Machine/Beam.lean ====
section
/-! DEFINITION. The delay-and-sum beamformer (43_beamformer.md) and the command BEAM. -/

namespace Sys2Proof.Machine

/-- `beamSum(i)` (R170): channels in increasing `ch`; a channel whose delayed index is negative is
omitted and raises BF_OMIT. -/
def beamSum (s : State) (i : Nat) : Scaled × Flags :=
  accumulate s.cfg.C fun acc ch =>
    if delayAt s.cfg ch ≤ i then
      add acc (readScaled s (streamAddr s.cfg ch (i - delayAt s.cfg ch)))
    else (acc, Flag.bfOmit.mask)

/-- `beamOut(i)` (R171): the mantissa of the sum divided by `C` toward zero, the scale unchanged. -/
def beamOut (s : State) (i : Nat) : Scaled × Flags :=
  let r := beamSum s i
  let q := r.1.m.toInt.tdiv s.cfg.C
  (⟨wrap32 q, r.1.s⟩, r.2 ||| flagIf (decide (q * s.cfg.C ≠ r.1.m.toInt)) .bfDivloss)

/-- `OUT[i] <- beamOut(i)`, taken from `s`, whose STREAM the beamformer does not write (R172). -/
def writeOut (s t : State) (i : Nat) : State :=
  let r := beamOut s i
  (writeScaled t (outAddr i) r.1).raise r.2

/-- `for i in 0..B-1: OUT[i] <- beamOut(i)` (R172). -/
def beamAll (s : State) : State := (List.range s.cfg.B).foldl (writeOut s) s

/-- BEAM (R172). -/
def execBeam (s : State) : Host.Outcome State Fault Refusal := .next (complete (beamAll s))

end Sys2Proof.Machine
end

