-- ==== Sys2Proof/Machine/Dft.lean ====
section
/-! DEFINITION. The table-driven DFT (42_dft.md) and the command DFT. -/

namespace Sys2Proof.Machine

/-- `angleIndex(k, n)` (R160): exact product, floor division, then `mod`. -/
def angleIndex (cfg : Config) (k n : Nat) : Nat := (k * n * cfg.L / cfg.M) % cfg.L

/-- The accumulator of one bin against one table (R161), `n` increasing. -/
def binSum (s : State) (table : Config → Nat → Scaled) (k : Nat) : Scaled × Flags :=
  accumulate s.cfg.M fun acc n =>
    mulAdd acc (readScaled s (outAddr n)) (table s.cfg (angleIndex s.cfg k n))

/-- `BIN[k] <- (re, im)` with both sums taken from `s`, whose OUT the DFT does not write (R161,
R162). The imaginary part has the sign the source writes. -/
def writeBin (s t : State) (k : Nat) : State :=
  let re := binSum s cosAt k
  let im := binSum s sinAt k
  (writeScaled (writeScaled t (binReAddr k) re.1) (binImAddr k) im.1).raise (re.2 ||| im.2)

/-- `dftBins()` (R161): bins `0..(M div 2)-1`. -/
def dftBins (s : State) : State := (List.range (s.cfg.M / 2)).foldl (writeBin s) s

/-- DFT (R162): `dftBins()`. On a core with `B < M` the word is illegal and only sets ILL and DONE
(R99). -/
def execDft (s : State) : Host.Outcome State Fault Refusal :=
  if s.cfg.M ≤ s.cfg.B then .next (complete (dftBins s)) else .next (rejectIllegal s)

end Sys2Proof.Machine
end

