-- ==== Sys2Proof/Machine/Fir.lean ====
section
/-! DEFINITION. The FIR filter bank (41_fir.md): the filter step, the bank, and the commands FIRS,
FIRADV and FIRB. -/

namespace Sys2Proof.Machine

/-- `(cursor - i) mod T`, also when `cursor < i` (R140). -/
def tapIndex (s : State) (i : Nat) : Nat := (((s.cursor.toNat : Int) - (i : Int)) % (s.cfg.T : Int)).toNat

/-- The sum over the taps of one channel's delay line as it stands (R140), taps in increasing `i`. -/
def tapSum (s : State) (ch : Nat) : Scaled × Flags :=
  accumulate s.cfg.T fun acc i =>
    mulAdd acc (readScaled s (dlAddr s.cfg ch (tapIndex s i))) (coefAt s.cfg i)

/-- `DL[ch][cursor] <- x` (R140). -/
def pushDl (s : State) (ch : Nat) (x : Scaled) : State :=
  writeScaled s (dlAddr s.cfg ch s.cursor.toNat) x

/-- `firStep(ch, x)` (R140): the state with the sample stored and the flags raised, and the sum. -/
def firStep (s : State) (ch : Nat) (x : Scaled) : State × Scaled :=
  let t := pushDl s ch x
  let r := tapSum t ch
  (t.raise r.2, r.1)

/-- `STREAM[ch][n] <- firStep(ch, STREAM[ch][n])` (R144). -/
def firStream (n : Nat) (s : State) (ch : Nat) : State :=
  let a := streamAddr s.cfg ch n
  let r := firStep s ch (readScaled s a)
  writeScaled r.1 a r.2

/-- One sample index of the bank: every channel in increasing `ch`, then `cursorAdvance()` (R144). -/
def firSample (s : State) (n : Nat) : State :=
  cursorAdvance ((List.range s.cfg.C).foldl (firStream n) s)

/-- `firBank()` (R144): sample outer, channel inner. -/
def firBank (s : State) : State := (List.range s.cfg.B).foldl firSample s

/-- FIRS (R142): `x <- V[RA]; V[RD] <- firStep(CH, x)`. With `CH >= C` the command is illegal, "with
no effect but STATUS.ILL and STATUS.DONE". -/
def execFirs (rd ra : Reg) (ch : BitVec 16) (s : State) : Host.Outcome State Fault Refusal :=
  if ch.toNat < s.cfg.C then
    let r := firStep s ch.toNat (readV s ra)
    .next (complete (writeV r.1 rd r.2))
  else .next (rejectIllegal s)

/-- FIRADV (R143): `cursorAdvance()`. -/
def execFiradv (s : State) : Host.Outcome State Fault Refusal := .next (complete (cursorAdvance s))

/-- FIRB (R144): `firBank()`. -/
def execFirb (s : State) : Host.Outcome State Fault Refusal := .next (complete (firBank s))

end Sys2Proof.Machine
end

