-- ==== Sys2Proof/Machine/Pipeline.lean ====
section
/-! DEFINITION. Conversion, delivery and the block procedure (44_pipeline.md), the commands CONV,
DELIVER, BLOCK and NOP, and the automatic block. -/

namespace Sys2Proof.Machine

/-- `fromInteger(RAW[ch][n] - DC_OFFSET, DEC)` (R180). -/
def convOne (s : State) (ch n : Nat) : Scaled × Flags :=
  fromInteger ((readRaw s ch n : Int) - (s.cfg.dcOffset : Int)) s.cfg.dec

/-- `STREAM[ch][n]` of its converted code, taken from `s`, whose RAW conversion does not write. -/
def convEntry (s : State) (ch : Nat) (t : State) (n : Nat) : State :=
  let r := convOne s ch n
  (writeScaled t (streamAddr s.cfg ch n) r.1).raise r.2

/-- One channel of the conversion (R180). -/
def convChannel (s t : State) (ch : Nat) : State :=
  (List.range s.cfg.B).foldl (convEntry s ch) t

/-- `convertAll()` (R180). -/
def convertAll (s : State) : State := (List.range s.cfg.C).foldl (convChannel s) s

/-- The word delivered for bin `k` with its `last` marker (R184, R195). -/
def binWord (s : State) (k : Nat) : Emitted :=
  ⟨Config.binReduce (readScaled s (binReAddr k)) (readScaled s (binImAddr k)),
    decide (k + 1 = s.cfg.M / 2)⟩

/-- `deliverBins()` (R184), bins in increasing `k`. -/
def deliverBins (s : State) : State := emitAll s ((List.range (s.cfg.M / 2)).map (binWord s))

/-- Step 4 of the block: transform and delivery, only "If block size ≥ transform size" (R182). -/
def transformAndDeliver (s : State) : State :=
  if s.cfg.M ≤ s.cfg.B then deliverBins (dftBins s) else s

/-- `blockProcess()` (R182). -/
def blockProcess (s : State) : State :=
  countBlock (transformAndDeliver (beamAll (firBank (convertAll s))))

/-- CONV (R181): `convertAll()`. -/
def execConv (s : State) : Host.Outcome State Fault Refusal := .next (complete (convertAll s))

/-- DELIVER (R185): `deliverBins()`, legal also when `B < M`. -/
def execDeliver (s : State) : Host.Outcome State Fault Refusal := .next (complete (deliverBins s))

/-- BLOCK (R183): `blockProcess()`; PENDING does not change. -/
def execBlock (s : State) : Host.Outcome State Fault Refusal := .next (complete (blockProcess s))

/-- NOP (R186): no pseudocode; it still completes. -/
def execNop (s : State) : Host.Outcome State Fault Refusal := .next (complete s)

/-- The completion of an automatic block (R189, R199): the function of BLOCK. -/
def execAutoblock (s : State) : Host.Outcome State Fault Refusal := .next (complete (blockProcess s))

end Sys2Proof.Machine
end

