-- ==== Sys2Proof/Syntax.lean ====
section
/-! DEFINITION. The 14 commands of 30_encoding.md rule R97, one constructor per row of
spec/opcode_table.json. -/

namespace Sys2Proof

/-- A command with its operands (R91, R97). -/
inductive Instr where
  /-- NOP, format N (R186). -/
  | nop
  /-- VADD vd, va, vb, format R (R116). -/
  | vadd (rd ra rb : Reg)
  /-- VMUL vd, va, vb, format R (R117). -/
  | vmul (rd ra rb : Reg)
  /-- VMAC vd, va, vb, format R (R118). -/
  | vmac (rd ra rb : Reg)
  /-- VFROMI vd, va, #d, format D (R119); `d` is the 7-bit field of R94. -/
  | vfromi (rd ra : Reg) (d : BitVec 7)
  /-- VTOI vd, va, format U (R120). -/
  | vtoi (rd ra : Reg)
  /-- FIRS vd, va, #ch, format C (R142); `ch` is the 16-bit field of R95. -/
  | firs (rd ra : Reg) (ch : BitVec 16)
  /-- FIRADV, format N (R143). -/
  | firadv
  /-- FIRB, format N (R144). -/
  | firb
  /-- DFT, format N (R162). -/
  | dft
  /-- BEAM, format N (R172). -/
  | beam
  /-- CONV, format N (R181). -/
  | conv
  /-- DELIVER, format N (R185). -/
  | deliver
  /-- BLOCK, format N (R183). -/
  | block
deriving DecidableEq, Repr

end Sys2Proof
end

