-- ==== Sys2Proof/Machine/Dispatch.lean ====
section
/-! DEFINITION. The one match over the commands: what the completion step of each does (44_pipeline.md
rules R198, R199). -/

namespace Sys2Proof.Machine

def exec (i : Instr) (s : State) : Host.Outcome State Fault Refusal :=
  match i with
  | .nop => Sys2Proof.Machine.execNop s
  | .vadd rd ra rb => Sys2Proof.Machine.execVadd rd ra rb s
  | .vmul rd ra rb => Sys2Proof.Machine.execVmul rd ra rb s
  | .vmac rd ra rb => Sys2Proof.Machine.execVmac rd ra rb s
  | .vfromi rd ra d => Sys2Proof.Machine.execVfromi rd ra d s
  | .vtoi rd ra => Sys2Proof.Machine.execVtoi rd ra s
  | .firs rd ra ch => Sys2Proof.Machine.execFirs rd ra ch s
  | .firadv => Sys2Proof.Machine.execFiradv s
  | .firb => Sys2Proof.Machine.execFirb s
  | .dft => Sys2Proof.Machine.execDft s
  | .beam => Sys2Proof.Machine.execBeam s
  | .conv => Sys2Proof.Machine.execConv s
  | .deliver => Sys2Proof.Machine.execDeliver s
  | .block => Sys2Proof.Machine.execBlock s

end Sys2Proof.Machine
end

