-- ==== Sys2Proof/WellFormed.lean ====
section
/-! DEFINITION. The value checks of 30_encoding.md rule R97: what a command must meet, beside its
encoding, to be legal on a core of a given configuration. -/

namespace Sys2Proof

/-- The value check column of R97: `CH < C` for FIRS (R95), `B >= M` for DFT (R99), none for the
others. -/
def Instr.wellFormed (cfg : Config) : Instr → Bool
  | .nop => true
  | .vadd _ _ _ => true
  | .vmul _ _ _ => true
  | .vmac _ _ _ => true
  | .vfromi _ _ _ => true
  | .vtoi _ _ => true
  | .firs _ _ ch => decide (ch.toNat < cfg.C)
  | .firadv => true
  | .firb => true
  | .dft => decide (cfg.M ≤ cfg.B)
  | .beam => true
  | .conv => true
  | .deliver => true
  | .block => true

end Sys2Proof
end

