-- ==== Sys2Proof/Decode.lean ====
section
/-! DEFINITION. The decoder of 30_encoding.md rule R100, total on every 32-bit word, and the encoder
of rules R92 and R102. -/

namespace Sys2Proof

/-- `OPC`, bits 31:24 (R91). -/
def opcOf (w : Word) : BitVec 8 := w.extractLsb' 24 8

/-- `RD`, bits 23:20 (R91). -/
def rdOf (w : Word) : Reg := w.extractLsb' 20 4

/-- `RA`, bits 19:16 (R91). -/
def raOf (w : Word) : Reg := w.extractLsb' 16 4

/-- `RB`, bits 15:12 (R91). -/
def rbOf (w : Word) : Reg := w.extractLsb' 12 4

/-- `D`, bits 6:0 (R91, R94). -/
def dOf (w : Word) : BitVec 7 := w.extractLsb' 0 7

/-- `CH`, bits 15:0 (R91, R95). -/
def chOf (w : Word) : BitVec 16 := w.extractLsb' 0 16

/-- Whether a word matches a row of R97: `w & mask == match`. -/
def rowMatches (w mask pattern : Word) : Bool := w &&& mask == pattern

/-- The rows of R97 in their order, each with its mask and match, before the value checks. -/
def decodeRow (w : Word) : Option Instr :=
  if rowMatches w 0xFFFFFFFF 0x00000000 then some .nop
  else if rowMatches w 0xFF000FFF 0x01000000 then some (.vadd (rdOf w) (raOf w) (rbOf w))
  else if rowMatches w 0xFF000FFF 0x02000000 then some (.vmul (rdOf w) (raOf w) (rbOf w))
  else if rowMatches w 0xFF000FFF 0x03000000 then some (.vmac (rdOf w) (raOf w) (rbOf w))
  else if rowMatches w 0xFF00FF80 0x04000000 then some (.vfromi (rdOf w) (raOf w) (dOf w))
  else if rowMatches w 0xFF00FFFF 0x05000000 then some (.vtoi (rdOf w) (raOf w))
  else if rowMatches w 0xFF000000 0x10000000 then some (.firs (rdOf w) (raOf w) (chOf w))
  else if rowMatches w 0xFFFFFFFF 0x11000000 then some .firadv
  else if rowMatches w 0xFFFFFFFF 0x12000000 then some .firb
  else if rowMatches w 0xFFFFFFFF 0x20000000 then some .dft
  else if rowMatches w 0xFFFFFFFF 0x30000000 then some .beam
  else if rowMatches w 0xFFFFFFFF 0x40000000 then some .conv
  else if rowMatches w 0xFFFFFFFF 0x41000000 then some .deliver
  else if rowMatches w 0xFFFFFFFF 0x42000000 then some .block
  else none

/-- `decode(w)` of R100 on a core of configuration `cfg`; `none` is ILLEGAL (R98). -/
def decode (cfg : Config) (w : Word) : Option Instr :=
  match decodeRow w with
  | some i => if i.wellFormed cfg then some i else none
  | none => none

/-- The word of a command, field by field as the tables of R92 lay it out (R102). -/
def encode : Instr → Word
  | .nop => 0x00#8 ++ 0#24
  | .vadd rd ra rb => 0x01#8 ++ rd ++ ra ++ rb ++ 0#12
  | .vmul rd ra rb => 0x02#8 ++ rd ++ ra ++ rb ++ 0#12
  | .vmac rd ra rb => 0x03#8 ++ rd ++ ra ++ rb ++ 0#12
  | .vfromi rd ra d => 0x04#8 ++ rd ++ ra ++ 0#9 ++ d
  | .vtoi rd ra => 0x05#8 ++ rd ++ ra ++ 0#16
  | .firs rd ra ch => 0x10#8 ++ rd ++ ra ++ ch
  | .firadv => 0x11#8 ++ 0#24
  | .firb => 0x12#8 ++ 0#24
  | .dft => 0x20#8 ++ 0#24
  | .beam => 0x30#8 ++ 0#24
  | .conv => 0x40#8 ++ 0#24
  | .deliver => 0x41#8 ++ 0#24
  | .block => 0x42#8 ++ 0#24

/-- The opcode of a command (R97). -/
def Instr.opcode : Instr → BitVec 8
  | .nop => 0x00
  | .vadd _ _ _ => 0x01
  | .vmul _ _ _ => 0x02
  | .vmac _ _ _ => 0x03
  | .vfromi _ _ _ => 0x04
  | .vtoi _ _ => 0x05
  | .firs _ _ _ => 0x10
  | .firadv => 0x11
  | .firb => 0x12
  | .dft => 0x20
  | .beam => 0x30
  | .conv => 0x40
  | .deliver => 0x41
  | .block => 0x42

/-- The command the decoder reads from an opcode-table row's word on the core `State.reset`
describes (`Config.ex1`, assumption 1). A command is one 32-bit word (R90); the core loads it whole,
so no byte order comes in (R67). -/
def decodeTableWord (nbits w : Nat) : Option Instr :=
  decode Config.ex1 (BitVec.ofNat 32 (w % 2 ^ nbits))

end Sys2Proof
end

