-- ==== Sys2Proof/Machine/HostBus.lean ====
section
/-! DEFINITION. The host bus (20_memory.md): the address map, host reads and writes, the control and
status registers (10_state.md), and the taking of a command (44_pipeline.md rules R196, R197). -/

namespace Sys2Proof.Machine

/-- The registers of the control page (R61). -/
inductive CtlReg where
  | id | ctrl | status | cmd | cursor | blkcnt
  | cfgC | cfgB | cfgT | cfgM | cfgL | cfgDec | cfgRawBits | cfgDcOff
deriving DecidableEq, Repr

/-- The two words of a scaled value (R31). -/
inductive Half where
  | mant | scale
deriving DecidableEq, Repr

/-- The memories of scaled values (R62). -/
inductive ScaledMem where
  | stream | dl | out | bin
deriving DecidableEq, Repr

/-- The read-only tables of scaled values (R62). -/
inductive Table where
  | coef | cos | sin
deriving DecidableEq, Repr

/-- What a host word address reaches (R61, R62). -/
inductive Loc where
  /-- A register of the control page. -/
  | reg (r : CtlReg)
  /-- A word of a V register. -/
  | v (r : Reg) (h : Half)
  /-- RAW entry `e`. -/
  | raw (e : Nat)
  /-- A word of scaled value `e` of a memory; in BIN value `2k` is `BIN[k].re` and `2k + 1` is
  `BIN[k].im`, which is their layout at `16*k` and `16*k + 8`. -/
  | entry (m : ScaledMem) (e : Nat) (h : Half)
  /-- A word of entry `e` of a table. -/
  | table (t : Table) (e : Nat) (h : Half)
  /-- `DELAY[e]`. -/
  | delay (e : Nat)
  /-- No location (R64). -/
  | unmapped
deriving DecidableEq, Repr

/-- The control page by word number (R61). -/
def ctlRegs : List CtlReg :=
  [.id, .ctrl, .status, .cmd, .cursor, .blkcnt,
   .cfgC, .cfgB, .cfgT, .cfgM, .cfgL, .cfgDec, .cfgRawBits, .cfgDcOff]

/-- MANT at the lower address, SCALE at that address + 4 (R31). -/
def halfAt (off : Nat) : Half := if off / 4 % 2 = 0 then .mant else .scale

/-- Base address of a memory of scaled values (R62). -/
def ScaledMem.base : ScaledMem → Nat
  | .stream => streamBase
  | .dl => dlBase
  | .out => outBase
  | .bin => binBase

/-- Address of the MANT word of scaled value `e` of a memory. -/
def ScaledMem.addr (m : ScaledMem) (e : Nat) : Nat := m.base + 8 * e

/-- Entry `e` of a table (R37). -/
def Table.at (cfg : Config) : Table → Nat → Scaled
  | .coef => coefAt cfg
  | .cos => cosAt cfg
  | .sin => sinAt cfg

/-- A region of scaled values: mapped up to its last entry (R62). -/
def scaledLoc (n off : Nat) (f : Nat → Half → Loc) : Loc :=
  if off / 8 < n then f (off / 8) (halfAt off) else .unmapped

/-- A region of words: mapped up to its last entry (R62). -/
def wordLoc (n off : Nat) (f : Nat → Loc) : Loc :=
  if off / 4 < n then f (off / 4) else .unmapped

/-- The control page and the V registers (R61), by byte offset below `0x100000`. -/
def lowLoc (a : Nat) : Loc :=
  if a < 0x100 then
    match ctlRegs[a / 4]? with
    | some r => .reg r
    | none => .unmapped
  else if a < 0x180 then .v (BitVec.ofNat 4 ((a - 0x100) / 8)) (halfAt a)
  else .unmapped

/-- The region an address lies in, and the word it reaches there (R61, R62, R64): `n` entries per
region, the rest unmapped. Address bits 1:0 are ignored (R66): every quotient drops them. -/
def locate (cfg : Config) (addr : HostAddr) : Loc :=
  let a := addr.toNat
  if a < rawBase then lowLoc a
  else if a < streamBase then wordLoc (cfg.C * cfg.B) (a - rawBase) .raw
  else if a < dlBase then scaledLoc (cfg.C * cfg.B) (a - streamBase) (.entry .stream)
  else if a < outBase then scaledLoc (cfg.C * cfg.T) (a - dlBase) (.entry .dl)
  else if a < binBase then scaledLoc cfg.B (a - outBase) (.entry .out)
  else if a < coefBase then scaledLoc (2 * (cfg.M / 2)) (a - binBase) (.entry .bin)
  else if a < cosBase then scaledLoc cfg.T (a - coefBase) (.table .coef)
  else if a < sinBase then scaledLoc cfg.L (a - cosBase) (.table .cos)
  else if a < delayBase then scaledLoc cfg.L (a - sinBase) (.table .sin)
  else if a < reservedBase then wordLoc cfg.C (a - delayBase) .delay
  else .unmapped

/-! ### What a read returns -/

/-- One word of a scaled value: `m`, or `sext_32(s)` (R31). -/
def halfWord (x : Scaled) : Half → Word
  | .mant => x.m
  | .scale => x.s.signExtend 32

/-- The phase a command's STATUS reads show while it runs (R39); a block's is one of 1 to 5, which
is unspecified (assumption 6). -/
def Instr.phase (n : Nat) : Instr → BitVec 3
  | .nop => 6
  | .vadd _ _ _ => 6
  | .vmul _ _ _ => 6
  | .vmac _ _ _ => 6
  | .vfromi _ _ _ => 6
  | .vtoi _ _ => 6
  | .firs _ _ _ => 6
  | .firadv => 6
  | .firb => 2
  | .dft => 4
  | .beam => 3
  | .conv => 1
  | .deliver => 5
  | .block => BitVec.ofNat 3 (1 + (Config.freePhase n).val)

/-- STATUS.PHASE as a read shows it (R23, R39). -/
def phase (s : State) : BitVec 3 :=
  match s.fsm with
  | .idle => 0
  | .init => 7
  | .busy .autoblock => BitVec.ofNat 3 (1 + (Config.freePhase s.fresh).val)
  | .busy (.command w) =>
    match decode s.cfg w with
    | some i => Instr.phase s.fresh i
    | none => 6

/-- The STATUS word, bit by bit (R23, R24). -/
def statusWord (s : State) : Word :=
  0#8 ++ s.flags ++ 0#1 ++ BitVec.ofBool (blkReq s) ++ BitVec.ofBool s.pending ++ phase s ++
    BitVec.ofBool (isBusy s)

/-- The CTRL word: SRST and bits 30:3 read 0 (R22). -/
def ctrlWord (s : State) : Word :=
  0#29 ++ BitVec.ofBool s.iee ++ BitVec.ofBool s.ie ++ BitVec.ofBool s.auto

/-- What a control register reads (R21 to R29). -/
def readCtl (s : State) : CtlReg → Word
  | .id => 0x44504101#32
  | .ctrl => ctrlWord s
  | .status => statusWord s
  | .cmd => s.cmd
  | .cursor => s.cursor
  | .blkcnt => s.blkcnt
  | .cfgC => BitVec.ofNat 32 s.cfg.C
  | .cfgB => BitVec.ofNat 32 s.cfg.B
  | .cfgT => BitVec.ofNat 32 s.cfg.T
  | .cfgM => BitVec.ofNat 32 s.cfg.M
  | .cfgL => BitVec.ofNat 32 s.cfg.L
  | .cfgDec => BitVec.ofNat 32 s.cfg.dec
  | .cfgRawBits => BitVec.ofNat 32 s.cfg.rawBits
  | .cfgDcOff => BitVec.ofNat 32 s.cfg.dcOffset

/-- The value of a location (R61, R62, R64). -/
def readLoc (s : State) : Loc → Word
  | .reg r => readCtl s r
  | .v r h => halfWord (readV s r) h
  | .raw e => BitVec.ofNat 32 (rawCode s.cfg (readWord s (rawBase + 4 * e)))
  | .entry m e h => halfWord (readScaled s (m.addr e)) h
  | .table t e h => halfWord (t.at s.cfg e) h
  | .delay e => BitVec.ofNat 32 (delayAt s.cfg e)
  | .unmapped => 0#32

/-! ### Write sets -/

/-- The locations a block writes (R183, R240). -/
def blockWrites (cfg : Config) : Loc → Bool
  | .entry .stream _ _ => true
  | .entry .dl _ _ => true
  | .entry .out _ _ => true
  | .entry .bin _ _ => decide (cfg.M ≤ cfg.B)
  | .reg .cursor => true
  | .reg .blkcnt => true
  | _ => false

/-- Whether a location is a word of `V[rd]`. -/
def isV (rd : Reg) (l : Loc) : Bool := decide (l = .v rd .mant) || decide (l = .v rd .scale)

/-- Whether a location is a word of a memory. -/
def isMem (m : ScaledMem) : Loc → Bool
  | .entry m' _ _ => decide (m' = m)
  | _ => false

/-- The write set of a command (R240). -/
def instrWrites (s : State) (l : Loc) : Instr → Bool
  | .nop => false
  | .vadd rd _ _ => isV rd l
  | .vmul rd _ _ => isV rd l
  | .vmac rd _ _ => isV rd l
  | .vfromi rd _ _ => isV rd l
  | .vtoi rd _ => isV rd l
  | .firs rd _ ch =>
    isV rd l || decide (l = .entry .dl (ch.toNat * s.cfg.T + s.cursor.toNat) .mant) ||
      decide (l = .entry .dl (ch.toNat * s.cfg.T + s.cursor.toNat) .scale)
  | .firadv => decide (l = .reg .cursor)
  | .firb => isMem .stream l || isMem .dl l || decide (l = .reg .cursor)
  | .dft => isMem .bin l
  | .beam => isMem .out l
  | .conv => isMem .stream l
  | .deliver => false
  | .block => blockWrites s.cfg l

/-- Whether a location is in the write set of what the sequencer is doing (R70, R240); during reset
initialisation that is DL. -/
def inWriteSet (s : State) (l : Loc) : Bool :=
  match s.fsm with
  | .idle => false
  | .init => isMem .dl l
  | .busy .autoblock => blockWrites s.cfg l
  | .busy (.command w) =>
    match decode s.cfg w with
    | some i => instrWrites s l i
    | none => false

/-! ### Host transactions -/

/-- The word a host read returns: the location's value, or an unspecified word for a location in the
running write set (R70, R239; assumption 5). -/
def readData (s : State) (addr : HostAddr) : Word :=
  if inWriteSet s (locate s.cfg addr) then Config.freeWord s.fresh
  else readLoc s (locate s.cfg addr)

/-- `MemRead(addr, 4)`: no side effect on the core (R68). The word goes to the model's read log and
the free-value counter advances (assumptions 5, 13). -/
def hostRead (s : State) (addr : HostAddr) : State :=
  { s with readLog := s.readLog ++ [readData s addr], fresh := s.fresh + 1 }

/-- A CTRL write (R22): bit 31 resets, and the rest of such a write is ignored. -/
def writeCtrl (s : State) (w : Word) : State :=
  if w.getLsbD 31 then applyReset s
  else { s with auto := w.getLsbD 0, ie := w.getLsbD 1, iee := w.getLsbD 2 }

/-- A STATUS write (R25): a 1 in bits 23:7 clears that flag, the other bits are ignored. -/
def writeStatus (s : State) (w : Word) : State :=
  { s with flags := s.flags &&& ~~~(w.extractLsb' 7 17) }

/-- A CMD write (R196, R197): taken when `fsm = IDLE` and `CTRL.AUTO = 0`, else dropped with
CMDOVR. -/
def writeCmd (s : State) (w : Word) : State :=
  if s.fsm = .idle ∧ s.auto = false then
    match decode s.cfg w with
    | some _ => accept { s with cmd := w } (.command w)
    | none => rejectIllegal { s with cmd := w }
  else s.setFlags Flag.cmdovr.mask

/-- A data write: dropped with HZD while the core is busy (R69, R241). -/
def whenIdle (s t : State) : State := if isBusy s then s.setFlags Flag.hzd.mask else t

/-- A scaled value with one of its words written: SCALE takes bits 7:0 (R31). -/
def withHalf (x : Scaled) (w : Word) : Half → Scaled
  | .mant => ⟨w, x.s⟩
  | .scale => ⟨x.m, w.extractLsb' 0 8⟩

/-- Writes one word of the scaled value stored at an address (R31). -/
def writeHalf (s : State) (a : Nat) (w : Word) : Half → State
  | .mant => writeWord s a w
  | .scale => writeByte s (a + 4) (w.extractLsb' 0 8)

/-- A write to a location (R61, R62, R64, R65, R69). -/
def writeLoc (s : State) (w : Word) : Loc → State
  | .reg .ctrl => writeCtrl s w
  | .reg .status => writeStatus s w
  | .reg .cmd => writeCmd s w
  | .reg _ => s.setFlags Flag.addr.mask
  | .v r h => whenIdle s (writeV s r (withHalf (readV s r) w h))
  | .raw e => whenIdle s (writeRaw s (rawBase + 4 * e) w)
  | .entry .dl _ _ => s.setFlags Flag.addr.mask
  | .entry m e h => whenIdle s (writeHalf s (m.addr e) w h)
  | .table _ _ _ => s.setFlags Flag.addr.mask
  | .delay _ => s.setFlags Flag.addr.mask
  | .unmapped => s.setFlags Flag.addr.mask

/-- `MemWrite(addr, 4, w)`. -/
def hostWrite (s : State) (addr : HostAddr) (w : Word) : State :=
  writeLoc s w (locate s.cfg addr)

end Sys2Proof.Machine
end

