-- ==== Sys2Proof/Machine/Producer.lean ====
section
/-! DEFINITION. The producer port (44_pipeline.md rules R190 to R193). -/

namespace Sys2Proof.Machine

/-- A producer RAW write (R192): taken when `blk_req = 1` and the index is in range, else dropped with
OVERRUN. Entry `e` is `RAW[e div B][e mod B]`, at `4*e` in the region (R62). -/
def producerWrite (s : State) (e : Nat) (w : Word) : State :=
  if blkReq s ∧ e < s.cfg.C * s.cfg.B then writeRaw s (rawBase + 4 * e) w
  else s.setFlags Flag.overrun.mask

/-- The producer's `blk_done` (R193): it sets PENDING when `blk_req = 1`, else is dropped with
OVERRUN. -/
def producerDone (s : State) : State :=
  if blkReq s then { s with pending := true } else s.setFlags Flag.overrun.mask

end Sys2Proof.Machine
end

