-- ==== Sys2Proof/Machine/Sequencer.lean ====
section
/-! DEFINITION. The sequencer's steps and the step of each other agent (44_pipeline.md rule R188). -/

namespace Sys2Proof.Machine

/-- The completion of a latched command word (R198, R199): the word is decoded and its meaning runs.
An illegal word is never latched (R196); a state that holds one, which no run reaches, rejects it as
R196 says (assumption 10). -/
def completeCommand (w : Word) (s : State) : Host.Outcome State Fault Refusal :=
  match decode s.cfg w with
  | some i => exec i s
  | none => .next (rejectIllegal s)

/-- Start block (R188): from IDLE, with `CTRL.AUTO = 1` and `PENDING = 1`. -/
def startBlock (s : State) : State := accept { s with pending := false } .autoblock

/-- The sequencer's enabled step (R188); in a quiescent state it has none (R201), and the state stays
as it is (assumption 7). -/
def sequencerTurn (s : State) : Host.Outcome State Fault Refusal :=
  match s.fsm with
  | .init => .next (finishInit s)
  | .busy (.command w) => completeCommand w s
  | .busy .autoblock => execAutoblock s
  | .idle => if s.auto ∧ s.pending then .next (startBlock s) else .next s

/-- The step of one event's agent (R188). -/
def takeEvent (e : Event) (s : State) : Host.Outcome State Fault Refusal :=
  match e with
  | .hostWrite a w => .next (hostWrite s a w)
  | .hostRead a => .next (hostRead s a)
  | .rawWrite i w => .next (producerWrite s i w)
  | .blkDone => .next (producerDone s)
  | .hardReset => .next (applyReset s)
  | .sequencer => sequencerTurn s

end Sys2Proof.Machine
end

