-- ==== Sys2Proof/Machine/Step.lean ====
section
/-! DEFINITION. One step of the machine: the next event of the schedule, or the sequencer's own step
when the schedule is empty (44_pipeline.md rules R188, R198; 70_reset_and_hazards.md rule R247;
assumption 7). -/

namespace Sys2Proof.Machine

/-- One atomic step of the agent whose turn it is. -/
def step (s : State) : Host.Outcome State Fault Refusal :=
  match s.schedule with
  | [] => sequencerTurn s
  | e :: rest => takeEvent e { s with schedule := rest }

/-- The state in which the very next step runs the command of word `w`: the word is latched as an
accepted command is (R196: `CMD <- w`, `op <- w`, `EVT <- 0`, `fsm <- BUSY`), and the sequencer has
the next turn. Nothing else changes (assumption 9). -/
def State.withFetchWord (s : State) (nbits w : Nat) : State :=
  let word : Word := BitVec.ofNat 32 (w % 2 ^ nbits)
  { s with cmd := word, fsm := .busy (.command word), evt := 0, schedule := .sequencer :: s.schedule }

end Sys2Proof.Machine
end

