-- ==== Sys2Proof/Safety.lean ====
section
/-! DEFINITION. The terms claims use: what a command leaves alone, how it completes, the invariant of
the machine, and the sums of the spec written as recursions of their own. -/

namespace Sys2Proof.Machine

/-! ### Frames -/

/-- The state no command changes: configuration, CTRL, CMD, PENDING, and the model's own fields. -/
def KeepsControl (s t : State) : Prop :=
  t.cfg = s.cfg ∧ t.auto = s.auto ∧ t.ie = s.ie ∧ t.iee = s.iee ∧ t.cmd = s.cmd ∧
  t.pending = s.pending ∧ t.schedule = s.schedule ∧ t.readLog = s.readLog ∧ t.fresh = s.fresh ∧
  t.memSeed = s.memSeed

/-- Every V register is unchanged. -/
def KeepsV (s t : State) : Prop := ∀ r : Reg, readV t r = readV s r

/-- Every V register but one is unchanged. -/
def KeepsVBut (rd : Reg) (s t : State) : Prop := ∀ r : Reg, r ≠ rd → readV t r = readV s r

/-- CURSOR, BLKCNT and the consumer trace are unchanged. -/
def KeepsCounters (s t : State) : Prop :=
  t.cursor = s.cursor ∧ t.blkcnt = s.blkcnt ∧ t.trace = s.trace

/-- Every byte of memory reads as before. -/
def KeepsMem (s t : State) : Prop := ∀ a : Nat, readByte t a = readByte s a

/-- Every byte of memory outside a set reads as before. -/
def KeepsMemBut (stored : Nat → Prop) (s t : State) : Prop :=
  ∀ a : Nat, ¬ stored a → readByte t a = readByte s a

/-- The five storage bytes of the scaled value at an address. -/
def ScaledBytes (base a : Nat) : Prop := base ≤ a ∧ a < base + 5

/-- The storage bytes of STREAM. -/
def StreamBytes (cfg : Config) (a : Nat) : Prop :=
  ∃ ch n, ch < cfg.C ∧ n < cfg.B ∧ ScaledBytes (streamAddr cfg ch n) a

/-- The storage bytes of DL. -/
def DlBytes (cfg : Config) (a : Nat) : Prop :=
  ∃ ch j, ch < cfg.C ∧ j < cfg.T ∧ ScaledBytes (dlAddr cfg ch j) a

/-- The storage bytes of OUT. -/
def OutBytes (cfg : Config) (a : Nat) : Prop := ∃ n, n < cfg.B ∧ ScaledBytes (outAddr n) a

/-- The storage bytes of BIN. -/
def BinBytes (cfg : Config) (a : Nat) : Prop :=
  ∃ k, k < cfg.M / 2 ∧ (ScaledBytes (binReAddr k) a ∨ ScaledBytes (binImAddr k) a)

/-- The storage bytes of RAW. -/
def RawBytes (cfg : Config) (a : Nat) : Prop := ∃ e, e < cfg.C * cfg.B ∧ rawBase + 4 * e ≤ a ∧ a < rawBase + 4 * e + 4

/-- How an operation completes (R115, R199): `fsm` is IDLE, EVT gains exactly the flags the operation
raised, and STATUS is merged with EVT and has DONE. That EVT still holds those flags after the
completion is the model's reading (assumption 14). -/
def Completes (s t : State) (raised : Flag → Prop) : Prop :=
  t.fsm = .idle ∧ (∀ f : Flag, f.isIn t.evt = true ↔ f.isIn s.evt = true ∨ raised f) ∧
  t.flags = s.flags ||| t.evt ||| Flag.done.mask

/-! ### Sums, as the spec's loops write them -/

/-- `acc = {0, 0}; for i in 0..n-1: acc = add(acc, multiply(x i, c i))`, with every flag raised
(R140, R161). -/
def macFold (x c : Nat → Scaled) : Nat → Scaled × Flags
  | 0 => (Scaled.zero, 0#17)
  | i + 1 =>
    ((add (macFold x c i).1 (multiply (x i) (c i)).1).1,
      (macFold x c i).2 ||| (multiply (x i) (c i)).2 |||
        (add (macFold x c i).1 (multiply (x i) (c i)).1).2)

/-- `beamSum(i)` over the first channels (R170). -/
def beamFold (s : State) (i : Nat) : Nat → Scaled × Flags
  | 0 => (Scaled.zero, 0#17)
  | ch + 1 =>
    if i < delayAt s.cfg ch then ((beamFold s i ch).1, (beamFold s i ch).2 ||| Flag.bfOmit.mask)
    else
      ((add (beamFold s i ch).1 (readScaled s (streamAddr s.cfg ch (i - delayAt s.cfg ch)))).1,
        (beamFold s i ch).2 |||
          (add (beamFold s i ch).1 (readScaled s (streamAddr s.cfg ch (i - delayAt s.cfg ch)))).2)

/-- What tap `i` reads at sample `n` of a bank run: the input of `i` samples earlier, from this
block's STREAM or, before its start, from the delay line the block found (R140, R144). -/
def tapInput (s : State) (ch n i : Nat) : Scaled :=
  if i ≤ n then readScaled s (streamAddr s.cfg ch (n - i))
  else readScaled s (dlAddr s.cfg ch ((s.cursor.toNat + n + s.cfg.T - i) % s.cfg.T))

/-- The quantity `m * 10^s` a scaled value denotes (R14). -/
def value (x : Scaled) : ℚ := (x.m.toInt : ℚ) * (10 : ℚ) ^ x.s.toInt

/-! ### The opcode map, as R97 prints it -/

/-- Mask and match of each row of R97. -/
def opcodeRows : List (Word × Word) :=
  [(0xFFFFFFFF, 0x00000000), (0xFF000FFF, 0x01000000), (0xFF000FFF, 0x02000000),
   (0xFF000FFF, 0x03000000), (0xFF00FF80, 0x04000000), (0xFF00FFFF, 0x05000000),
   (0xFF000000, 0x10000000), (0xFFFFFFFF, 0x11000000), (0xFFFFFFFF, 0x12000000),
   (0xFFFFFFFF, 0x20000000), (0xFFFFFFFF, 0x30000000), (0xFFFFFFFF, 0x40000000),
   (0xFFFFFFFF, 0x41000000), (0xFFFFFFFF, 0x42000000)]

/-! ### Whose step comes next -/

/-- The sequencer has the next step. -/
def SequencerNext (s : State) : Prop :=
  s.schedule = [] ∨ ∃ rest, s.schedule = .sequencer :: rest

/-- The next step is a reset: `rst_n`, or a host write of CTRL with bit 31 = 1 (R230). -/
def ResetNext (s : State) : Prop :=
  (∃ rest, s.schedule = .hardReset :: rest) ∨
  (∃ a w rest, s.schedule = .hostWrite a w :: rest ∧ a.toNat / 4 = 1 ∧ w.getLsbD 31 = true)

/-- The sequencer holds an automatic block, or a command of the given kind. -/
def Holds (s : State) (kind : Instr → Prop) : Prop :=
  s.fsm = .busy .autoblock ∨
  ∃ w i, s.fsm = .busy (.command w) ∧ decode s.cfg w = some i ∧ kind i

/-- The commands that run the FIR step (R145). -/
def RunsFirStep : Instr → Prop
  | .firs _ _ _ => True
  | .firb => True
  | .block => True
  | _ => False

/-- The commands that advance the cursor (R145). -/
def AdvancesCursor : Instr → Prop
  | .firadv => True
  | .firb => True
  | .block => True
  | _ => False

/-! ### The address map, by address -/

/-- The addresses of V registers and of the writable memories (R61, R62). -/
def DataWritable (cfg : Config) (a : HostAddr) : Prop :=
  (0x100 ≤ a.toNat ∧ a.toNat < 0x180) ∨
  (0x100000 ≤ a.toNat ∧ a.toNat < 0x100000 + 4 * (cfg.C * cfg.B)) ∨
  (0x200000 ≤ a.toNat ∧ a.toNat < 0x200000 + 8 * (cfg.C * cfg.B)) ∨
  (0x400000 ≤ a.toNat ∧ a.toNat < 0x400000 + 8 * cfg.B) ∨
  (0x500000 ≤ a.toNat ∧ a.toNat < 0x500000 + 16 * (cfg.M / 2))

/-- The addresses of read-only locations (R61, R62, R65): ID, CURSOR, BLKCNT, the CFG registers, DL
and the tables. -/
def ReadOnly (cfg : Config) (a : HostAddr) : Prop :=
  a.toNat < 0x4 ∨ (0x10 ≤ a.toNat ∧ a.toNat < 0x38) ∨
  (0x300000 ≤ a.toNat ∧ a.toNat < 0x300000 + 8 * (cfg.C * cfg.T)) ∨
  (0x600000 ≤ a.toNat ∧ a.toNat < 0x600000 + 8 * cfg.T) ∨
  (0x700000 ≤ a.toNat ∧ a.toNat < 0x700000 + 8 * cfg.L) ∨
  (0x800000 ≤ a.toNat ∧ a.toNat < 0x800000 + 8 * cfg.L) ∨
  (0x900000 ≤ a.toNat ∧ a.toNat < 0x900000 + 4 * cfg.C)

/-- The addresses of CTRL, STATUS and CMD (R61). -/
def ControlWritable (a : HostAddr) : Prop := 0x4 ≤ a.toNat ∧ a.toNat < 0x10

/-- The addresses that reach nothing (R64): all the others. -/
def Unmapped (cfg : Config) (a : HostAddr) : Prop :=
  ¬ DataWritable cfg a ∧ ¬ ReadOnly cfg a ∧ ¬ ControlWritable a

/-! ### The invariant -/

/-- What every reachable state has: a legal configuration, the cursor in `0..T-1` (R28), canonical
memory, a held command that is legal and is the CMD value (R196), no block pending while one the
producer started runs (R188), and an empty EVT until completion (R25, R38). -/
structure Inv (s : State) : Prop where
  legal : s.cfg.Legal
  cursor_lt : s.cursor.toNat < s.cfg.T
  mem_wf : Memory.wf s.mem
  held : ∀ w, s.fsm = .busy (.command w) → s.cmd = w ∧ (decode s.cfg w).isSome = true
  taken : s.fsm = .busy .autoblock → s.pending = false
  evt_clear : s.fsm ≠ .idle → s.evt = 0#17

/-- Every listed byte is a storage byte of an entry the configuration has (R62, R79). -/
def MemMapped (s : State) : Prop :=
  ∀ c ∈ s.mem, RawBytes s.cfg c.1 ∨ StreamBytes s.cfg c.1 ∨ DlBytes s.cfg c.1 ∨
    OutBytes s.cfg c.1 ∨ BinBytes s.cfg c.1

end Sys2Proof.Machine
end

