-- ==== Sys2Proof/Certificates/Slice0/Obligations.lean ====
section
/-! DEFINITION. The statements for the provers. Rule numbers are those of spec/. -/

open Sys2Proof Sys2Proof.Machine

/-! ### Encoding -/

/-- R102, R98: the example words of the assembler table decode to their commands on EX1, and four
illegal words of 95_test_vectors.md to none. -/
def Obligations.ExampleWordsDecode : Prop :=
  decode Config.ex1 0x42000000 = some .block ∧
  decode Config.ex1 0x01312000 = some (.vadd 3 1 2) ∧
  decode Config.ex1 0x05540000 = some (.vtoi 5 4) ∧
  decode Config.ex1 0x04650003 = some (.vfromi 6 5 3) ∧
  decode Config.ex1 0x10210000 = some (.firs 2 1 0) ∧
  decode Config.ex1 0xFF000000 = none ∧
  decode Config.ex1 0x01312001 = none ∧
  decode Config.ex1 0x10100002 = none ∧
  decode { Config.ex1 with B := 2 } 0x20000000 = none

/-- Every well-formed command's word decodes to it. -/
def Obligations.DecodeInvertsEncode : Prop :=
  ∀ (cfg : Config) (i : Instr), i.wellFormed cfg = true → decode cfg (encode i) = some i

/-- Every legal word is the word of the one command it decodes to, which is well formed. -/
def Obligations.EncodeInvertsDecode : Prop :=
  ∀ (cfg : Config) (w : Word) (i : Instr),
    decode cfg w = some i → encode i = w ∧ i.wellFormed cfg = true

/-- R98: a word is illegal exactly when no row of R97 matches it, or it is FIRS with `CH >= C`, or
DFT on a core with `B < M`. -/
def Obligations.IllegalWordsAreThoseOfTheRule : Prop :=
  ∀ (cfg : Config) (w : Word),
    decode cfg w = none ↔
      (∀ r ∈ opcodeRows, w &&& r.1 ≠ r.2) ∨
      (w.toNat / 2 ^ 24 = 0x10 ∧ cfg.C ≤ w.toNat % 2 ^ 16) ∨
      (w.toNat / 2 ^ 24 = 0x20 ∧ cfg.B < cfg.M)

/-! ### Scaled-value arithmetic -/

/-- R110. `Int.bmod x (2^32)` is the wrap of R12: the residue of `x` in `-2^31 .. 2^31 - 1`. -/
def Obligations.FromIntegerFollowsItsRule : Prop :=
  ∀ (v : Int) (d : Nat), d ≤ 127 →
    (fromInteger v d).1.m.toInt = Int.bmod (v * 10 ^ d) (2 ^ 32) ∧
    (fromInteger v d).1.s.toInt = -(d : Int) ∧
    ∀ f : Flag, f.isIn (fromInteger v d).2 = true ↔
      f = .convWrap ∧ ¬(-2 ^ 31 ≤ v * 10 ^ d ∧ v * 10 ^ d ≤ 2 ^ 31 - 1)

/-- R111, both cases, and the zero result when `-s >= 10`. -/
def Obligations.ToIntegerFollowsItsRule : Prop :=
  ∀ (a : Scaled),
    (∀ k : Nat, a.s.toInt = k →
      (toInteger a).1.toInt = Int.bmod (a.m.toInt * 10 ^ k) (2 ^ 32) ∧
      ∀ f : Flag, f.isIn (toInteger a).2 = true ↔
        f = .tointWrap ∧ ¬(-2 ^ 31 ≤ a.m.toInt * 10 ^ k ∧ a.m.toInt * 10 ^ k ≤ 2 ^ 31 - 1)) ∧
    (∀ k : Nat, 0 < k → a.s.toInt = -(k : Int) →
      (toInteger a).1.toInt = a.m.toInt.tdiv (10 ^ k) ∧
      (10 ≤ k → (toInteger a).1 = 0#32) ∧
      ∀ f : Flag, f.isIn (toInteger a).2 = true ↔
        f = .tointLoss ∧ a.m.toInt.tdiv (10 ^ k) * 10 ^ k ≠ a.m.toInt)

/-- R112, its three cases, in either argument order. -/
def Obligations.AddFollowsItsThreeCases : Prop :=
  (∀ a b : Scaled, a.s = b.s →
    (add a b).1.s = a.s ∧
    (add a b).1.m.toInt = Int.bmod (a.m.toInt + b.m.toInt) (2 ^ 32) ∧
    ∀ f : Flag, f.isIn (add a b).2 = true ↔
      f = .addWrap ∧ ¬(-2 ^ 31 ≤ a.m.toInt + b.m.toInt ∧ a.m.toInt + b.m.toInt ≤ 2 ^ 31 - 1)) ∧
  (∀ hi lo : Scaled, 10 < hi.s.toInt - lo.s.toInt →
    (∀ r, r = add hi lo ∨ r = add lo hi → r.1 = hi ∧ ∀ f : Flag, f.isIn r.2 = true ↔ f = .addSkip)) ∧
  (∀ (hi lo : Scaled) (diff : Nat), hi.s.toInt - lo.s.toInt = diff → 0 < diff → diff ≤ 10 →
    ∀ r, r = add hi lo ∨ r = add lo hi →
      r.1.s = lo.s ∧
      r.1.m.toInt = Int.bmod (hi.m.toInt * 10 ^ diff + lo.m.toInt) (2 ^ 32) ∧
      ∀ f : Flag, f.isIn r.2 = true ↔
        (f = .alignWrap ∧ ¬(-2 ^ 31 ≤ hi.m.toInt * 10 ^ diff ∧ hi.m.toInt * 10 ^ diff ≤ 2 ^ 31 - 1)) ∨
        (f = .addWrap ∧
          ¬(-2 ^ 31 ≤ Int.bmod (hi.m.toInt * 10 ^ diff) (2 ^ 32) + lo.m.toInt ∧
            Int.bmod (hi.m.toInt * 10 ^ diff) (2 ^ 32) + lo.m.toInt ≤ 2 ^ 31 - 1)))

/-- R113: `add` is commutative in result and flags, and not associative: the rule's example. -/
def Obligations.AddCommutesAndDoesNotAssociate : Prop :=
  (∀ a b : Scaled, add a b = add b a) ∧
  (add (add (.ofInts 1 (-11)) (.ofInts 1 0)).1 (.ofInts (-10) (-1))).1 = .ofInts 0 (-1) ∧
  (add (.ofInts 1 (-11)) (add (.ofInts 1 0) (.ofInts (-10) (-1))).1).1 = .ofInts 1 (-11)

/-- R14, R112: an `add` that raises no flag is exact in value. -/
def Obligations.AddIsExactWhenItRaisesNoFlag : Prop :=
  ∀ a b : Scaled, (add a b).2 = 0#17 → value (add a b).1 = value a + value b

/-- R114, both cases, with the scale's wrap. -/
def Obligations.MultiplyFollowsItsRule : Prop :=
  ∀ a b : Scaled,
    ((-2 ^ 31 ≤ a.m.toInt * b.m.toInt ∧ a.m.toInt * b.m.toInt ≤ 2 ^ 31 - 1) →
      (multiply a b).1.m.toInt = a.m.toInt * b.m.toInt ∧
      (multiply a b).1.s.toInt = Int.bmod (a.s.toInt + b.s.toInt) (2 ^ 8) ∧
      ∀ f : Flag, f.isIn (multiply a b).2 = true ↔
        f = .scaleWrap ∧ ¬(-128 ≤ a.s.toInt + b.s.toInt ∧ a.s.toInt + b.s.toInt ≤ 127)) ∧
    (¬(-2 ^ 31 ≤ a.m.toInt * b.m.toInt ∧ a.m.toInt * b.m.toInt ≤ 2 ^ 31 - 1) →
      (multiply a b).1.m.toInt = Int.bmod ((a.m.toInt * b.m.toInt).tdiv 1000) (2 ^ 32) ∧
      (multiply a b).1.s.toInt = Int.bmod (a.s.toInt + b.s.toInt + 3) (2 ^ 8) ∧
      ∀ f : Flag, f.isIn (multiply a b).2 = true ↔
        f = .mulRescale ∨
        (f = .mulWrap ∧ ¬(-2 ^ 31 ≤ (a.m.toInt * b.m.toInt).tdiv 1000 ∧
          (a.m.toInt * b.m.toInt).tdiv 1000 ≤ 2 ^ 31 - 1)) ∨
        (f = .scaleWrap ∧ ¬(-128 ≤ a.s.toInt + b.s.toInt + 3 ∧ a.s.toInt + b.s.toInt + 3 ≤ 127)))

/-- R14, R114: `multiply` commutes, and one that raises no flag is exact in value. -/
def Obligations.MultiplyCommutesAndIsExactWhenItRaisesNoFlag : Prop :=
  ∀ a b : Scaled, multiply a b = multiply b a ∧
    ((multiply a b).2 = 0#17 → value (multiply a b).1 = value a * value b)

/-- The round trip of the source's test (95_test_vectors.md L1-06): an integer converted without
overflow comes back, with no flag either way. -/
def Obligations.IntegerRoundTripIsExact : Prop :=
  ∀ (v : BitVec 32) (d : Nat), d ≤ 127 →
    -2 ^ 31 ≤ v.toInt * 10 ^ d → v.toInt * 10 ^ d ≤ 2 ^ 31 - 1 →
    (fromInteger v.toInt d).2 = 0#17 ∧ toInteger (fromInteger v.toInt d).1 = (v, 0#17)

/-! ### Commands on V registers: result, flags and frame -/

/-- R116. -/
def Obligations.VaddWritesTheSum : Prop :=
  ∀ (rd ra rb : Reg) (s : State), ∃ t, exec (.vadd rd ra rb) s = .next t ∧
    readV t rd = (add (readV s ra) (readV s rb)).1 ∧
    Completes s t (fun f => f.isIn (add (readV s ra) (readV s rb)).2 = true) ∧
    KeepsVBut rd s t ∧ KeepsMem s t ∧ KeepsCounters s t ∧ KeepsControl s t

/-- R117. -/
def Obligations.VmulWritesTheProduct : Prop :=
  ∀ (rd ra rb : Reg) (s : State), ∃ t, exec (.vmul rd ra rb) s = .next t ∧
    readV t rd = (multiply (readV s ra) (readV s rb)).1 ∧
    Completes s t (fun f => f.isIn (multiply (readV s ra) (readV s rb)).2 = true) ∧
    KeepsVBut rd s t ∧ KeepsMem s t ∧ KeepsCounters s t ∧ KeepsControl s t

/-- R118: also when the fields name one register, since all three are read from the old state. -/
def Obligations.VmacAccumulatesTheProduct : Prop :=
  ∀ (rd ra rb : Reg) (s : State), ∃ t, exec (.vmac rd ra rb) s = .next t ∧
    readV t rd = (add (readV s rd) (multiply (readV s ra) (readV s rb)).1).1 ∧
    Completes s t (fun f => f.isIn (multiply (readV s ra) (readV s rb)).2 = true ∨
      f.isIn (add (readV s rd) (multiply (readV s ra) (readV s rb)).1).2 = true) ∧
    KeepsVBut rd s t ∧ KeepsMem s t ∧ KeepsCounters s t ∧ KeepsControl s t

/-- R119: the mantissa is the integer, the scale of the source is ignored. -/
def Obligations.VfromiConvertsTheMantissa : Prop :=
  ∀ (rd ra : Reg) (d : BitVec 7) (s : State), ∃ t, exec (.vfromi rd ra d) s = .next t ∧
    readV t rd = (fromInteger (readV s ra).m.toInt d.toNat).1 ∧
    Completes s t (fun f => f.isIn (fromInteger (readV s ra).m.toInt d.toNat).2 = true) ∧
    KeepsVBut rd s t ∧ KeepsMem s t ∧ KeepsCounters s t ∧ KeepsControl s t

/-- R120: the integer is stored with scale 0. -/
def Obligations.VtoiStoresTheIntegerWithScaleZero : Prop :=
  ∀ (rd ra : Reg) (s : State), ∃ t, exec (.vtoi rd ra) s = .next t ∧
    readV t rd = ⟨(toInteger (readV s ra)).1, 0#8⟩ ∧
    Completes s t (fun f => f.isIn (toInteger (readV s ra)).2 = true) ∧
    KeepsVBut rd s t ∧ KeepsMem s t ∧ KeepsCounters s t ∧ KeepsControl s t

/-- R186. -/
def Obligations.NopOnlyCompletes : Prop :=
  ∀ s : State, ∃ t, exec .nop s = .next t ∧ Completes s t (fun _ => False) ∧
    KeepsV s t ∧ KeepsMem s t ∧ KeepsCounters s t ∧ KeepsControl s t

/-! ### FIR -/

/-- R140, R142: with `CH < C`, the sample goes to `DL[CH][cursor]`, and `V[RD]` gets the sum over the
delay line as it then stands; the cursor stays. -/
def Obligations.FirsFiltersOneSample : Prop :=
  ∀ (rd ra : Reg) (ch : BitVec 16) (s : State), ch.toNat < s.cfg.C →
    ∃ t, exec (.firs rd ra ch) s = .next t ∧
      readScaled t (dlAddr s.cfg ch.toNat s.cursor.toNat) = readV s ra ∧
      readV t rd = (macFold (fun i => readScaled t (dlAddr s.cfg ch.toNat
          (((s.cursor.toNat : Int) - (i : Int)) % (s.cfg.T : Int)).toNat))
        (coefAt s.cfg) s.cfg.T).1 ∧
      Completes s t (fun f => f.isIn (macFold (fun i => readScaled t (dlAddr s.cfg ch.toNat
          (((s.cursor.toNat : Int) - (i : Int)) % (s.cfg.T : Int)).toNat))
        (coefAt s.cfg) s.cfg.T).2 = true) ∧
      KeepsVBut rd s t ∧
      KeepsMemBut (ScaledBytes (dlAddr s.cfg ch.toNat s.cursor.toNat)) s t ∧
      KeepsCounters s t ∧ KeepsControl s t

/-- R95, R99, R142, R162: with `CH >= C` FIRS, and on a core with `B < M` DFT, has no effect but ILL and
DONE. Such a word is rejected when it is written (R196); that `exec` answers so too is the model's
choice (assumption 10). -/
def Obligations.IllegalByValueIsRejected : Prop :=
  (∀ (rd ra : Reg) (ch : BitVec 16) (s : State), s.cfg.C ≤ ch.toNat →
    exec (.firs rd ra ch) s =
      .next { s with fsm := .idle, flags := s.flags ||| Flag.ill.mask ||| Flag.done.mask }) ∧
  (∀ s : State, s.cfg.B < s.cfg.M →
    exec .dft s =
      .next { s with fsm := .idle, flags := s.flags ||| Flag.ill.mask ||| Flag.done.mask })

/-- R141, R143: the cursor advances by one modulo `T`, and nothing else changes. -/
def Obligations.FiradvAdvancesTheCursor : Prop :=
  ∀ s : State, s.cfg.Legal → ∃ t, exec .firadv s = .next t ∧
    t.cursor.toNat = (s.cursor.toNat + 1) % s.cfg.T ∧
    t.blkcnt = s.blkcnt ∧ t.trace = s.trace ∧
    Completes s t (fun _ => False) ∧ KeepsV s t ∧ KeepsMem s t ∧ KeepsControl s t

/-- R140, R144: the bank run is a convolution. `STREAM[ch][n]` becomes the ordered sum over the taps
of the inputs `n, n-1, ...` of this block and, before its start, of the line the block found; the
line then holds the last `T` inputs; the cursor has advanced `B` times. -/
def Obligations.FirbConvolvesEveryChannel : Prop :=
  ∀ s : State, s.cfg.Legal → s.cursor.toNat < s.cfg.T →
    ∃ t, exec .firb s = .next t ∧
      (∀ ch n, ch < s.cfg.C → n < s.cfg.B →
        readScaled t (streamAddr s.cfg ch n) =
          (macFold (tapInput s ch n) (coefAt s.cfg) s.cfg.T).1) ∧
      (∀ ch k, ch < s.cfg.C → k < s.cfg.T →
        readScaled t (dlAddr s.cfg ch ((s.cursor.toNat + s.cfg.B + s.cfg.T - 1 - k) % s.cfg.T)) =
          if k < s.cfg.B then readScaled s (streamAddr s.cfg ch (s.cfg.B - 1 - k))
          else readScaled s
            (dlAddr s.cfg ch ((s.cursor.toNat + s.cfg.B + s.cfg.T - 1 - k) % s.cfg.T))) ∧
      t.cursor.toNat = (s.cursor.toNat + s.cfg.B) % s.cfg.T ∧
      Completes s t (fun f => ∃ ch n, ch < s.cfg.C ∧ n < s.cfg.B ∧
        f.isIn (macFold (tapInput s ch n) (coefAt s.cfg) s.cfg.T).2 = true)

/-- R144: FIRB completes and changes nothing but STREAM, DL, CURSOR, EVT, STATUS and `fsm`. -/
def Obligations.FirbWritesOnlyItsWriteSet : Prop :=
  ∀ s : State, s.cfg.Legal → s.cursor.toNat < s.cfg.T → ∃ t, exec .firb s = .next t ∧
    KeepsMemBut (fun a => StreamBytes s.cfg a ∨ DlBytes s.cfg a) s t ∧
    KeepsV s t ∧ t.blkcnt = s.blkcnt ∧ t.trace = s.trace ∧ KeepsControl s t ∧
    ∀ f : Flag, f ∉ [Flag.mulRescale, .mulWrap, .scaleWrap, .addSkip, .alignWrap, .addWrap, .done] →
      f.isIn t.flags = (f.isIn s.flags || f.isIn s.evt)

/-- R145: only the FIR step and reset initialisation change a byte of the DL region, and only
`cursorAdvance` and reset change the cursor. -/
def Obligations.OnlyFilteringAndResetTouchFilterState : Prop :=
  ∀ s t : State, s.cfg.Legal → step s = .next t →
    (∀ a, 0x300000 ≤ a → a < 0x400000 → readByte t a ≠ readByte s a →
      SequencerNext s ∧ (s.fsm = .init ∨ Holds s RunsFirStep)) ∧
    (t.cursor ≠ s.cursor → ResetNext s ∨ (SequencerNext s ∧ Holds s AdvancesCursor))

/-! ### DFT and beamformer -/

/-- R160, R161, R162: each bin is the two ordered sums over OUT, the imaginary one with `+ sin`. -/
def Obligations.DftWritesEveryBin : Prop :=
  ∀ s : State, s.cfg.M ≤ s.cfg.B → ∃ t, exec .dft s = .next t ∧
    (∀ k, k < s.cfg.M / 2 →
      readScaled t (binReAddr k) = (macFold (fun n => readScaled s (outAddr n))
        (fun n => cosAt s.cfg ((k * n * s.cfg.L / s.cfg.M) % s.cfg.L)) s.cfg.M).1 ∧
      readScaled t (binImAddr k) = (macFold (fun n => readScaled s (outAddr n))
        (fun n => sinAt s.cfg ((k * n * s.cfg.L / s.cfg.M) % s.cfg.L)) s.cfg.M).1) ∧
    Completes s t (fun f => ∃ k, k < s.cfg.M / 2 ∧
      (f.isIn (macFold (fun n => readScaled s (outAddr n))
        (fun n => cosAt s.cfg ((k * n * s.cfg.L / s.cfg.M) % s.cfg.L)) s.cfg.M).2 = true ∨
       f.isIn (macFold (fun n => readScaled s (outAddr n))
        (fun n => sinAt s.cfg ((k * n * s.cfg.L / s.cfg.M) % s.cfg.L)) s.cfg.M).2 = true)) ∧
    KeepsMemBut (BinBytes s.cfg) s t ∧ KeepsV s t ∧ KeepsCounters s t ∧ KeepsControl s t

/-- R163, for a constant block of scale `-10..0` whose sum fits: bin 0 is `({M*m, s}, {0, s})`. -/
def Obligations.DftOfAConstantBlockHasItsSumInBinZero : Prop :=
  ∀ (s : State) (v : Scaled), s.cfg.M ≤ s.cfg.B → 2 ≤ s.cfg.M →
    (∀ n, n < s.cfg.M → readScaled s (outAddr n) = v) →
    cosAt s.cfg 0 = .ofInts 1 0 → sinAt s.cfg 0 = .ofInts 0 0 →
    -10 ≤ v.s.toInt → v.s.toInt ≤ 0 →
    -2 ^ 31 ≤ (s.cfg.M : Int) * v.m.toInt → (s.cfg.M : Int) * v.m.toInt ≤ 2 ^ 31 - 1 →
    ∃ t, exec .dft s = .next t ∧
      (readScaled t (binReAddr 0)).m.toInt = (s.cfg.M : Int) * v.m.toInt ∧
      (readScaled t (binReAddr 0)).s = v.s ∧
      readScaled t (binImAddr 0) = ⟨0#32, v.s⟩

/-- R170, R171, R172: every output sample is the ordered sum of the channels whose delayed index is
not negative, its mantissa divided by `C` toward zero. -/
def Obligations.BeamAveragesTheDelayedChannels : Prop :=
  ∀ s : State, 1 ≤ s.cfg.C → ∃ t, exec .beam s = .next t ∧
    (∀ i, i < s.cfg.B →
      (readScaled t (outAddr i)).m.toInt = (beamFold s i s.cfg.C).1.m.toInt.tdiv s.cfg.C ∧
      (readScaled t (outAddr i)).s = (beamFold s i s.cfg.C).1.s) ∧
    Completes s t (fun f => ∃ i, i < s.cfg.B ∧
      (f.isIn (beamFold s i s.cfg.C).2 = true ∨
       (f = .bfDivloss ∧ (beamFold s i s.cfg.C).1.m.toInt.tdiv s.cfg.C * s.cfg.C ≠
         (beamFold s i s.cfg.C).1.m.toInt))) ∧
    KeepsMemBut (OutBytes s.cfg) s t ∧ KeepsV s t ∧ KeepsCounters s t ∧ KeepsControl s t

/-- R173: with every delay 0 and one active channel of scale `-10..0`, the output is that channel's
input with its mantissa divided by `C`. -/
def Obligations.BeamWithZeroDelaysKeepsASingleChannel : Prop :=
  ∀ (s : State) (i a : Nat), i < s.cfg.B → a < s.cfg.C →
    (∀ ch, ch < s.cfg.C → delayAt s.cfg ch = 0) →
    (∀ ch, ch < s.cfg.C → ch ≠ a →
      readScaled s (streamAddr s.cfg ch i) = ⟨0#32, (readScaled s (streamAddr s.cfg a i)).s⟩) →
    -10 ≤ (readScaled s (streamAddr s.cfg a i)).s.toInt →
    (readScaled s (streamAddr s.cfg a i)).s.toInt ≤ 0 →
    ∃ t, exec .beam s = .next t ∧
      (readScaled t (outAddr i)).m.toInt =
        (readScaled s (streamAddr s.cfg a i)).m.toInt.tdiv s.cfg.C ∧
      (readScaled t (outAddr i)).s = (readScaled s (streamAddr s.cfg a i)).s

/-! ### Conversion, delivery, block -/

/-- R180, R181: every entry of STREAM is its centered code, converted with `DEC` places. -/
def Obligations.ConvConvertsEveryCode : Prop :=
  ∀ s : State, s.cfg.Legal → ∃ t, exec .conv s = .next t ∧
    (∀ ch n, ch < s.cfg.C → n < s.cfg.B →
      (readScaled t (streamAddr s.cfg ch n)).m.toInt =
        Int.bmod (((readRaw s ch n : Int) - s.cfg.dcOffset) * 10 ^ s.cfg.dec) (2 ^ 32) ∧
      (readScaled t (streamAddr s.cfg ch n)).s.toInt = -(s.cfg.dec : Int)) ∧
    Completes s t (fun f => f = .convWrap ∧ ∃ ch n, ch < s.cfg.C ∧ n < s.cfg.B ∧
      ¬(-2 ^ 31 ≤ ((readRaw s ch n : Int) - s.cfg.dcOffset) * 10 ^ s.cfg.dec ∧
        ((readRaw s ch n : Int) - s.cfg.dcOffset) * 10 ^ s.cfg.dec ≤ 2 ^ 31 - 1)) ∧
    KeepsMemBut (StreamBytes s.cfg) s t ∧ KeepsV s t ∧ KeepsCounters s t ∧ KeepsControl s t

/-- R184, R185: the bins are emitted in order, the last one marked, and nothing else changes; also
when `B < M`. -/
def Obligations.DeliverEmitsEveryBinInOrder : Prop :=
  ∀ s : State, ∃ t ws, exec .deliver s = .next t ∧ t.trace = s.trace ++ ws ∧
    ws.length = s.cfg.M / 2 ∧
    (∀ k, k < s.cfg.M / 2 → ws[k]? = some
      ⟨Config.binReduce (readScaled s (binReAddr k)) (readScaled s (binImAddr k)),
        decide (k = s.cfg.M / 2 - 1)⟩) ∧
    Completes s t (fun _ => False) ∧ KeepsV s t ∧ KeepsMem s t ∧
    t.cursor = s.cursor ∧ t.blkcnt = s.blkcnt ∧ KeepsControl s t

/-- R182, R183: BLOCK completes, counts one block, advances the cursor `B` times, writes only its
write set, delivers exactly when `B >= M`, and leaves the V registers and PENDING alone. -/
def Obligations.BlockCompletesWithinItsWriteSet : Prop :=
  ∀ s : State, s.cfg.Legal → s.cursor.toNat < s.cfg.T → ∃ t, exec .block s = .next t ∧
    t.blkcnt = s.blkcnt + 1 ∧ t.cursor.toNat = (s.cursor.toNat + s.cfg.B) % s.cfg.T ∧
    KeepsMemBut (fun a => StreamBytes s.cfg a ∨ DlBytes s.cfg a ∨ OutBytes s.cfg a ∨
      (s.cfg.M ≤ s.cfg.B ∧ BinBytes s.cfg a)) s t ∧
    (s.cfg.B < s.cfg.M → t.trace = s.trace) ∧
    (s.cfg.M ≤ s.cfg.B → ∃ ws, t.trace = s.trace ++ ws ∧ ws.length = s.cfg.M / 2 ∧
      ∀ k, k < s.cfg.M / 2 → ws[k]? = some
        ⟨Config.binReduce (readScaled t (binReAddr k)) (readScaled t (binImAddr k)),
          decide (k = s.cfg.M / 2 - 1)⟩) ∧
    KeepsV s t ∧ KeepsControl s t ∧ t.fsm = .idle ∧ Flag.done.isIn t.flags = true ∧
    ∀ f : Flag, f ∉ [Flag.mulRescale, .mulWrap, .scaleWrap, .addSkip, .alignWrap, .addWrap,
        .convWrap, .bfOmit, .bfDivloss, .done] →
      f.isIn t.flags = (f.isIn s.flags || f.isIn s.evt)

/-- R182, R225: BLOCK gives what CONV, FIRB, BEAM, DFT and DELIVER give one after the other when
`B >= M`, and what the first three give when `B < M`, except for BLKCNT. -/
def Obligations.BlockEqualsItsStepsIssuedOneByOne : Prop :=
  ∀ s t1 t2 t3 : State, exec .conv s = .next t1 → exec .firb t1 = .next t2 →
    exec .beam t2 = .next t3 →
    (∀ t4 t5 : State, s.cfg.M ≤ s.cfg.B → exec .dft t3 = .next t4 → exec .deliver t4 = .next t5 →
      exec .block s = .next { t5 with blkcnt := s.blkcnt + 1 }) ∧
    (s.cfg.B < s.cfg.M → exec .block s = .next { t3 with blkcnt := s.blkcnt + 1 })

/-! ### The machine -/

/-- R198, R199: when the sequencer, holding a command word, has the next step, that step is the
meaning of the command the word decodes to, on the state as it stands with the turn taken off the
schedule, the model's own list of steps to come (assumption 7). `withFetchWord` makes such a state
(assumption 9). -/
def Obligations.StepRunsTheDecodedCommand : Prop :=
  (∀ (s : State) (w : Word) (i : Instr), s.fsm = .busy (.command w) → decode s.cfg w = some i →
    (s.schedule = [] → step s = exec i s) ∧
    (∀ rest, s.schedule = .sequencer :: rest → step s = exec i { s with schedule := rest })) ∧
  (∀ (s : State) (w : Word) (i : Instr), decode s.cfg w = some i →
    step (s.withFetchWord 32 w.toNat) =
      exec i { s with cmd := w, fsm := .busy (.command w), evt := 0 })

/-- R200, R210: whatever the state, the next step gives a next state; nothing faults or is refused. In
two kinds of state that is the model's choice: with the sequencer's turn in a quiescent state, where R201
gives no step, the step is a stutter (assumption 7); and a held illegal word, which no run reaches, is
rejected as R196 rejects it (assumption 10). -/
def Obligations.EveryStepGivesANextState : Prop :=
  ∀ s : State, ∃ t, step s = .next t

/-- The invariant `Inv` is kept by every step of every agent. -/
def Obligations.StepKeepsTheMachineInvariant : Prop :=
  ∀ s t : State, Inv s → step s = .next t → Inv t

/-- The invariant holds right after reset, for every legal configuration, EX1 among them, which
`State.reset` takes by the model's choice (assumption 1). -/
def Obligations.ResetStateMeetsTheMachineInvariant : Prop :=
  (∀ cfg : Config, cfg.Legal → Inv (State.resetWith cfg)) ∧ Inv State.reset

/-- R79: every index the core forms is in range, so memory never lists a byte outside the entries
the configuration has. -/
def Obligations.StepKeepsMemoryWithinMappedEntries : Prop :=
  (∀ s t : State, Inv s → MemMapped s → step s = .next t → MemMapped t) ∧ MemMapped State.reset

/-- R196, R197, R66: a CMD write is taken, rejected or dropped. -/
def Obligations.CmdWriteIsTakenRejectedOrDropped : Prop :=
  ∀ (s : State) (a : HostAddr) (w : Word), a.toNat / 4 = 3 →
    (s.fsm = .idle → s.auto = false → (decode s.cfg w).isSome = true →
      hostWrite s a w = { s with cmd := w, fsm := .busy (.command w), evt := 0 }) ∧
    (s.fsm = .idle → s.auto = false → decode s.cfg w = none →
      hostWrite s a w =
        { s with cmd := w, flags := s.flags ||| Flag.ill.mask ||| Flag.done.mask }) ∧
    (¬(s.fsm = .idle ∧ s.auto = false) →
      hostWrite s a w = { s with flags := s.flags ||| Flag.cmdovr.mask })

/-- R196, R198, R199: a legal CMD write followed by the sequencer's turn runs the command's meaning
on the state with CMD latched and EVT clear. -/
def Obligations.AcceptThenCompleteRunsTheCommand : Prop :=
  ∀ (s : State) (w : Word) (i : Instr) (rest : List Event), s.fsm = .idle → s.auto = false →
    decode s.cfg w = some i → s.schedule = .hostWrite 0x00000C w :: .sequencer :: rest →
    Host.Core.run Sys2Proof.core 2 s =
      exec i { s with cmd := w, fsm := .busy (.command w), evt := 0, schedule := rest }

/-- R69, R241: a data write while the core is busy is dropped with HZD. -/
def Obligations.DataWriteWhileBusyIsDropped : Prop :=
  ∀ (s : State) (a : HostAddr) (w : Word), s.cfg.Legal → s.fsm ≠ .idle → DataWritable s.cfg a →
    hostWrite s a w = { s with flags := s.flags ||| Flag.hzd.mask }

/-- R64, R65: a write to a read-only or unmapped address, busy or not, only sets ADDR, and an
unmapped read gives 0. -/
def Obligations.ReadOnlyAndUnmappedAddresses : Prop :=
  ∀ (s : State) (a : HostAddr) (w : Word), s.cfg.Legal →
    (ReadOnly s.cfg a ∨ Unmapped s.cfg a →
      hostWrite s a w = { s with flags := s.flags ||| Flag.addr.mask }) ∧
    (Unmapped s.cfg a → readData s a = 0#32)

/-- R31: in IDLE, the words of `V[i]` read back as written, SCALE from its low byte, and nothing else
changes. -/
def Obligations.VRegisterWordsReadBack : Prop :=
  ∀ (s : State) (i : Reg) (w : Word), s.fsm = .idle →
    (∃ t, hostWrite s (BitVec.ofNat 24 (0x100 + 8 * i.toNat)) w = t ∧
      t = { s with v := t.v } ∧ KeepsVBut i s t ∧ readV t i = ⟨w, (readV s i).s⟩ ∧
      readData t (BitVec.ofNat 24 (0x100 + 8 * i.toNat)) = w) ∧
    (∃ t, hostWrite s (BitVec.ofNat 24 (0x104 + 8 * i.toNat)) w = t ∧
      t = { s with v := t.v } ∧ KeepsVBut i s t ∧
      readV t i = ⟨(readV s i).m, w.extractLsb' 0 8⟩ ∧
      readData t (BitVec.ofNat 24 (0x104 + 8 * i.toNat)) =
        BitVec.signExtend 32 (w.extractLsb' 0 8))

/-- R31, R62: in IDLE, the words of an entry of STREAM, OUT or BIN read back as written, SCALE from
its low byte, and no other byte of memory changes. -/
def Obligations.ScaledMemoryWordsReadBack : Prop :=
  ∀ (s : State) (base count e : Nat) (w : Word), s.cfg.Legal → s.fsm = .idle → e < count →
    (base = 0x200000 ∧ count = s.cfg.C * s.cfg.B ∨ base = 0x400000 ∧ count = s.cfg.B ∨
      base = 0x500000 ∧ count = 2 * (s.cfg.M / 2)) →
    (∃ t, hostWrite s (BitVec.ofNat 24 (base + 8 * e)) w = t ∧ t = { s with mem := t.mem } ∧
      readScaled t (base + 8 * e) = ⟨w, (readScaled s (base + 8 * e)).s⟩ ∧
      readData t (BitVec.ofNat 24 (base + 8 * e)) = w ∧
      KeepsMemBut (fun a => base + 8 * e ≤ a ∧ a < base + 8 * e + 4) s t) ∧
    (∃ t, hostWrite s (BitVec.ofNat 24 (base + 8 * e + 4)) w = t ∧ t = { s with mem := t.mem } ∧
      readScaled t (base + 8 * e) = ⟨(readScaled s (base + 8 * e)).m, w.extractLsb' 0 8⟩ ∧
      readData t (BitVec.ofNat 24 (base + 8 * e + 4)) =
        BitVec.signExtend 32 (w.extractLsb' 0 8) ∧
      KeepsMemBut (fun a => a = base + 8 * e + 4) s t)

/-- R32, R62: in IDLE, a RAW write keeps the low `RAW_BITS` bits of the word, reads them back
zero-extended, and changes no other entry's byte. -/
def Obligations.RawWriteKeepsTheLowBits : Prop :=
  ∀ (s : State) (ch n : Nat) (w : Word), s.cfg.Legal → s.fsm = .idle → ch < s.cfg.C → n < s.cfg.B →
    ∃ t, hostWrite s (BitVec.ofNat 24 (0x100000 + 4 * (ch * s.cfg.B + n))) w = t ∧
      t = { s with mem := t.mem } ∧ readRaw t ch n = w.toNat % 2 ^ s.cfg.rawBits ∧
      (readData t (BitVec.ofNat 24 (0x100000 + 4 * (ch * s.cfg.B + n)))).toNat =
        w.toNat % 2 ^ s.cfg.rawBits ∧
      KeepsMemBut (fun a => 0x100000 + 4 * (ch * s.cfg.B + n) ≤ a ∧
        a < 0x100000 + 4 * (ch * s.cfg.B + n) + 4) s t

/-- R68: a host read changes no state of the core; only the model's own read log, free-value counter and
schedule move (assumptions 5, 7, 13). -/
def Obligations.HostReadHasNoSideEffect : Prop :=
  ∀ (s : State) (a : HostAddr) (rest : List Event), s.schedule = .hostRead a :: rest →
    ∃ t, step s = .next t ∧
      t = { s with schedule := rest, readLog := t.readLog, fresh := t.fresh } ∧
      t.readLog = s.readLog ++ [readData s a]

/-- R21, R22, R26 to R29, R70: what each register of the control page reads; all but CURSOR and BLKCNT
also while the core is busy, since no write set holds them. -/
def Obligations.ControlPageReads : Prop :=
  ∀ s : State, s.cfg.Legal →
    readData s 0x000000 = 0x44504101#32 ∧ readData s 0x000004 = ctrlWord s ∧
    readData s 0x000008 = statusWord s ∧ readData s 0x00000C = s.cmd ∧
    (s.fsm = .idle → readData s 0x000010 = s.cursor ∧ readData s 0x000014 = s.blkcnt) ∧
    (readData s 0x000018).toNat = s.cfg.C ∧ (readData s 0x00001C).toNat = s.cfg.B ∧
    (readData s 0x000020).toNat = s.cfg.T ∧ (readData s 0x000024).toNat = s.cfg.M ∧
    (readData s 0x000028).toNat = s.cfg.L ∧ (readData s 0x00002C).toNat = s.cfg.dec ∧
    (readData s 0x000030).toNat = s.cfg.rawBits ∧ (readData s 0x000034).toNat = s.cfg.dcOffset

/-- R31, R37, R62, R70: the host reads COEF, COS, SIN and DELAY at any time, and DL in IDLE, each entry
at its address, a scaled value as MANT and sign-extended SCALE. -/
def Obligations.ReadOnlyMemoriesRead : Prop :=
  ∀ s : State, s.cfg.Legal →
    (∀ (base count e : Nat) (x : Scaled), e < count →
      (base = 0x600000 ∧ count = s.cfg.T ∧ x = coefAt s.cfg e ∨
        base = 0x700000 ∧ count = s.cfg.L ∧ x = cosAt s.cfg e ∨
        base = 0x800000 ∧ count = s.cfg.L ∧ x = sinAt s.cfg e ∨
        base = 0x300000 ∧ count = s.cfg.C * s.cfg.T ∧ s.fsm = .idle ∧
          x = readScaled s (base + 8 * e)) →
      readData s (BitVec.ofNat 24 (base + 8 * e)) = x.m ∧
      readData s (BitVec.ofNat 24 (base + 8 * e + 4)) = x.s.signExtend 32) ∧
    (∀ ch, ch < s.cfg.C →
      (readData s (BitVec.ofNat 24 (0x900000 + 4 * ch))).toNat = delayAt s.cfg ch)

/-- R23, R24: STATUS, bit by bit. -/
def Obligations.StatusWordLayout : Prop :=
  ∀ s : State,
    ((statusWord s).getLsbD 0 = true ↔ s.fsm ≠ .idle) ∧
    (statusWord s).getLsbD 4 = s.pending ∧
    ((statusWord s).getLsbD 5 = true ↔ s.auto = true ∧ s.fsm = .idle ∧ s.pending = false) ∧
    (statusWord s).getLsbD 6 = false ∧
    (∀ f : Flag, (statusWord s).getLsbD f.bit = f.isIn s.flags) ∧
    (∀ b, 24 ≤ b → (statusWord s).getLsbD b = false) ∧
    (statusWord s).toNat / 2 % 8 = (phase s).toNat

/-- R39: the phase that STATUS shows, for every state of the sequencer; a block's is one of 1 to
5. -/
def Obligations.PhaseFollowsTheRunningOperation : Prop :=
  ∀ s : State,
    (s.fsm = .idle → phase s = 0) ∧ (s.fsm = .init → phase s = 7) ∧
    (s.fsm = .busy .autoblock → 1 ≤ (phase s).toNat ∧ (phase s).toNat ≤ 5) ∧
    ∀ w i, s.fsm = .busy (.command w) → decode s.cfg w = some i →
      match i with
      | .conv => phase s = 1
      | .firb => phase s = 2
      | .beam => phase s = 3
      | .dft => phase s = 4
      | .deliver => phase s = 5
      | .block => 1 ≤ (phase s).toNat ∧ (phase s).toNat ≤ 5
      | _ => phase s = 6

/-- R25: a STATUS write clears exactly the flags whose bit is written 1, in any state, and nothing
else changes. -/
def Obligations.StatusWriteClearsTheWrittenFlags : Prop :=
  ∀ (s : State) (w : Word), ∃ t, hostWrite s 0x000008 w = t ∧ t = { s with flags := t.flags } ∧
    ∀ f : Flag, f.isIn t.flags = (f.isIn s.flags && !w.getLsbD f.bit)

/-- R22: a CTRL write with bit 31 = 0 sets the three enables, which read back with every other bit
0. -/
def Obligations.CtrlWriteSetsTheEnables : Prop :=
  ∀ (s : State) (w : Word), w.getLsbD 31 = false →
    ∃ t, hostWrite s 0x000004 w = t ∧
      t = { s with auto := w.getLsbD 0, ie := w.getLsbD 1, iee := w.getLsbD 2 } ∧
      readData t 0x000004 = w &&& 7#32

/-- R230, R235, R41: `rst_n` and a CTRL write with bit 31 = 1 do the same; every register takes its
reset value, the operation is abandoned, the consumer trace stays, and STATUS reads BUSY = 1, PHASE = 7
and nothing else. That DL's bytes stay until initialisation completes is the model's choice
(assumption 4). -/
def Obligations.ResetStepGivesTheResetValues : Prop :=
  ∀ (s : State) (w : Word), w.getLsbD 31 = true →
    ∃ t, takeEvent .hardReset s = .next t ∧ takeEvent (.hostWrite 0x000004 w) s = .next t ∧
      t.auto = false ∧ t.ie = false ∧ t.iee = false ∧ t.flags = 0 ∧ t.cmd = 0 ∧ t.cursor = 0 ∧
      t.blkcnt = 0 ∧ (∀ r : Reg, readV t r = Scaled.zero) ∧ t.pending = false ∧ t.evt = 0 ∧
      t.fsm = .init ∧ statusWord t = 0x0000000F#32 ∧ irq t = false ∧ blkReq t = false ∧
      t.trace = s.trace ∧ t.cfg = s.cfg ∧ t.schedule = s.schedule ∧ t.readLog = s.readLog ∧
      ∀ a, 0x300000 ≤ a → a < 0x400000 → readByte t a = readByte s a

/-- R233, R234: initialisation clears every DL entry, goes to IDLE, and changes nothing else. -/
def Obligations.InitialisationClearsTheDelayLines : Prop :=
  ∀ s : State, s.cfg.Legal → s.fsm = .init → ∃ t, sequencerTurn s = .next t ∧
    t = { s with fsm := .idle, mem := t.mem } ∧ isBusy t = false ∧ phase t = 0 ∧
    (∀ ch j, ch < s.cfg.C → j < s.cfg.T → readScaled t (dlAddr s.cfg ch j) = Scaled.zero) ∧
    KeepsMemBut (fun a => 0x300000 ≤ a ∧ a < 0x400000) s t

/-- R191, R192: a producer write is stored when `blk_req = 1` and its index is in range, and is else
dropped with OVERRUN. -/
def Obligations.ProducerWriteIsStoredOrDropped : Prop :=
  ∀ (s : State) (e : Nat) (w : Word), s.cfg.Legal →
    ((s.auto = true ∧ s.fsm = .idle ∧ s.pending = false) ∧ e < s.cfg.C * s.cfg.B →
      ∃ t, takeEvent (.rawWrite e w) s = .next t ∧ t = { s with mem := t.mem } ∧
        readRaw t (e / s.cfg.B) (e % s.cfg.B) = w.toNat % 2 ^ s.cfg.rawBits ∧
        KeepsMemBut (fun a => 0x100000 + 4 * e ≤ a ∧ a < 0x100000 + 4 * e + 4) s t) ∧
    (¬((s.auto = true ∧ s.fsm = .idle ∧ s.pending = false) ∧ e < s.cfg.C * s.cfg.B) →
      takeEvent (.rawWrite e w) s = .next { s with flags := s.flags ||| Flag.overrun.mask })

/-- R188, R189, R193: `blk_done` sets PENDING only when `blk_req = 1`; a pending block starts in AUTO
mode; its completion is BLOCK's; with AUTO = 0 it stays pending. A turn without a step leaves the state
as it is by the model's choice (assumption 7). -/
def Obligations.AutomaticBlockRunsFromDoneToCompletion : Prop :=
  (∀ s : State, (s.auto = true ∧ s.fsm = .idle ∧ s.pending = false) →
    takeEvent .blkDone s = .next { s with pending := true }) ∧
  (∀ s : State, ¬(s.auto = true ∧ s.fsm = .idle ∧ s.pending = false) →
    takeEvent .blkDone s = .next { s with flags := s.flags ||| Flag.overrun.mask }) ∧
  (∀ s : State, s.fsm = .idle → s.auto = true → s.pending = true →
    sequencerTurn s = .next { s with pending := false, fsm := .busy .autoblock, evt := 0 }) ∧
  (∀ s : State, s.fsm = .busy .autoblock → sequencerTurn s = exec .block s) ∧
  (∀ s : State, s.fsm = .idle → s.auto = false → sequencerTurn s = .next s)

/-- R213: `irq` is the function of CTRL and STATUS the rule gives. -/
def Obligations.IrqFollowsStatusAndEnables : Prop :=
  ∀ s : State, irq s = true ↔
    (s.ie = true ∧ (statusWord s).getLsbD 7 = true) ∨
    (s.iee = true ∧ ((statusWord s).getLsbD 19 = true ∨ (statusWord s).getLsbD 20 = true ∨
      (statusWord s).getLsbD 21 = true ∨ (statusWord s).getLsbD 22 = true ∨
      (statusWord s).getLsbD 23 = true))

/-- R24: a flag stays 1 until the host clears it by its STATUS bit, or a reset. -/
def Obligations.FlagsStayUntilTheHostClearsThem : Prop :=
  ∀ (s t : State) (f : Flag), step s = .next t → f.isIn s.flags = true → f.isIn t.flags = false →
    ResetNext s ∨ ∃ a w rest, s.schedule = .hostWrite a w :: rest ∧ a.toNat / 4 = 2 ∧
      w.getLsbD f.bit = true

/-- R198, R69, R192: while the core is busy, no step but the sequencer's and a reset touches an
operand, a result, CMD or the operation. -/
def Obligations.OnlyCompletionChangesResultsWhileBusy : Prop :=
  ∀ (s : State) (e : Event) (rest : List Event), s.fsm ≠ .idle → s.schedule = e :: rest →
    e ≠ .sequencer → ¬ ResetNext s → ∃ t, step s = .next t ∧
      t.fsm = s.fsm ∧ t.evt = s.evt ∧ t.v = s.v ∧ t.mem = s.mem ∧ t.cursor = s.cursor ∧
      t.blkcnt = s.blkcnt ∧ t.trace = s.trace ∧ t.cmd = s.cmd ∧ t.pending = s.pending ∧
      t.cfg = s.cfg ∧ t.memSeed = s.memSeed ∧ t.schedule = rest

/-- R24: flags change no numeric result: a command run from two states that differ only in STATUS and
EVT gives states that differ only there. -/
def Obligations.FlagsNeverChangeAResult : Prop :=
  ∀ (i : Instr) (s : State) (fl ev : Flags), ∃ t u,
    exec i s = .next t ∧ exec i { s with flags := fl, evt := ev } = .next u ∧
    u = { t with flags := u.flags, evt := u.evt }

/-- R247, R201: with no other agent's step left, the sequencer is quiescent after at most three
steps, and then stays as it is. That an empty schedule gives the sequencer every turn, and that a turn
without a step is a stutter, is the model's choice (assumption 7). -/
def Obligations.SequencerBecomesQuiescent : Prop :=
  ∀ s : State, s.schedule = [] → ∃ k t, k ≤ 3 ∧ Host.Core.run Sys2Proof.core k s = .next t ∧
    quiescent t = true ∧ step t = .next t
end

