-- ==== Sys2Proof/Laws/State.lean ====
section
/-! SUPPORT. One lemma per field per update of State, true by rfl (or by the
lemma of the update it is made of), so that no proof unfolds a record update. -/

namespace Sys2Proof.Machine

variable (s : State)

/-! ### raise -/

@[simp] theorem raise_cfg (fs : Flags) : (s.raise fs).cfg = s.cfg := rfl
@[simp] theorem raise_auto (fs : Flags) : (s.raise fs).auto = s.auto := rfl
@[simp] theorem raise_ie (fs : Flags) : (s.raise fs).ie = s.ie := rfl
@[simp] theorem raise_iee (fs : Flags) : (s.raise fs).iee = s.iee := rfl
@[simp] theorem raise_flags (fs : Flags) : (s.raise fs).flags = s.flags := rfl
@[simp] theorem raise_cmd (fs : Flags) : (s.raise fs).cmd = s.cmd := rfl
@[simp] theorem raise_cursor (fs : Flags) : (s.raise fs).cursor = s.cursor := rfl
@[simp] theorem raise_blkcnt (fs : Flags) : (s.raise fs).blkcnt = s.blkcnt := rfl
@[simp] theorem raise_v (fs : Flags) : (s.raise fs).v = s.v := rfl
@[simp] theorem raise_mem (fs : Flags) : (s.raise fs).mem = s.mem := rfl
@[simp] theorem raise_pending (fs : Flags) : (s.raise fs).pending = s.pending := rfl
@[simp] theorem raise_fsm (fs : Flags) : (s.raise fs).fsm = s.fsm := rfl
@[simp] theorem raise_evt (fs : Flags) : (s.raise fs).evt = s.evt ||| fs := rfl
@[simp] theorem raise_trace (fs : Flags) : (s.raise fs).trace = s.trace := rfl
@[simp] theorem raise_schedule (fs : Flags) : (s.raise fs).schedule = s.schedule := rfl
@[simp] theorem raise_readLog (fs : Flags) : (s.raise fs).readLog = s.readLog := rfl
@[simp] theorem raise_fresh (fs : Flags) : (s.raise fs).fresh = s.fresh := rfl
@[simp] theorem raise_memSeed (fs : Flags) : (s.raise fs).memSeed = s.memSeed := rfl

/-! ### setFlags -/

@[simp] theorem setFlags_cfg (fs : Flags) : (s.setFlags fs).cfg = s.cfg := rfl
@[simp] theorem setFlags_auto (fs : Flags) : (s.setFlags fs).auto = s.auto := rfl
@[simp] theorem setFlags_ie (fs : Flags) : (s.setFlags fs).ie = s.ie := rfl
@[simp] theorem setFlags_iee (fs : Flags) : (s.setFlags fs).iee = s.iee := rfl
@[simp] theorem setFlags_flags (fs : Flags) : (s.setFlags fs).flags = s.flags ||| fs := rfl
@[simp] theorem setFlags_cmd (fs : Flags) : (s.setFlags fs).cmd = s.cmd := rfl
@[simp] theorem setFlags_cursor (fs : Flags) : (s.setFlags fs).cursor = s.cursor := rfl
@[simp] theorem setFlags_blkcnt (fs : Flags) : (s.setFlags fs).blkcnt = s.blkcnt := rfl
@[simp] theorem setFlags_v (fs : Flags) : (s.setFlags fs).v = s.v := rfl
@[simp] theorem setFlags_mem (fs : Flags) : (s.setFlags fs).mem = s.mem := rfl
@[simp] theorem setFlags_pending (fs : Flags) : (s.setFlags fs).pending = s.pending := rfl
@[simp] theorem setFlags_fsm (fs : Flags) : (s.setFlags fs).fsm = s.fsm := rfl
@[simp] theorem setFlags_evt (fs : Flags) : (s.setFlags fs).evt = s.evt := rfl
@[simp] theorem setFlags_trace (fs : Flags) : (s.setFlags fs).trace = s.trace := rfl
@[simp] theorem setFlags_schedule (fs : Flags) : (s.setFlags fs).schedule = s.schedule := rfl
@[simp] theorem setFlags_readLog (fs : Flags) : (s.setFlags fs).readLog = s.readLog := rfl
@[simp] theorem setFlags_fresh (fs : Flags) : (s.setFlags fs).fresh = s.fresh := rfl
@[simp] theorem setFlags_memSeed (fs : Flags) : (s.setFlags fs).memSeed = s.memSeed := rfl

/-! ### writeByte -/

@[simp] theorem writeByte_cfg (a : Nat) (b : Byte) : (writeByte s a b).cfg = s.cfg := rfl
@[simp] theorem writeByte_auto (a : Nat) (b : Byte) : (writeByte s a b).auto = s.auto := rfl
@[simp] theorem writeByte_ie (a : Nat) (b : Byte) : (writeByte s a b).ie = s.ie := rfl
@[simp] theorem writeByte_iee (a : Nat) (b : Byte) : (writeByte s a b).iee = s.iee := rfl
@[simp] theorem writeByte_flags (a : Nat) (b : Byte) : (writeByte s a b).flags = s.flags := rfl
@[simp] theorem writeByte_cmd (a : Nat) (b : Byte) : (writeByte s a b).cmd = s.cmd := rfl
@[simp] theorem writeByte_cursor (a : Nat) (b : Byte) : (writeByte s a b).cursor = s.cursor := rfl
@[simp] theorem writeByte_blkcnt (a : Nat) (b : Byte) : (writeByte s a b).blkcnt = s.blkcnt := rfl
@[simp] theorem writeByte_v (a : Nat) (b : Byte) : (writeByte s a b).v = s.v := rfl
@[simp] theorem writeByte_mem (a : Nat) (b : Byte) : (writeByte s a b).mem = setCell s.mem a b := rfl
@[simp] theorem writeByte_pending (a : Nat) (b : Byte) : (writeByte s a b).pending = s.pending := rfl
@[simp] theorem writeByte_fsm (a : Nat) (b : Byte) : (writeByte s a b).fsm = s.fsm := rfl
@[simp] theorem writeByte_evt (a : Nat) (b : Byte) : (writeByte s a b).evt = s.evt := rfl
@[simp] theorem writeByte_trace (a : Nat) (b : Byte) : (writeByte s a b).trace = s.trace := rfl
@[simp] theorem writeByte_schedule (a : Nat) (b : Byte) : (writeByte s a b).schedule = s.schedule := rfl
@[simp] theorem writeByte_readLog (a : Nat) (b : Byte) : (writeByte s a b).readLog = s.readLog := rfl
@[simp] theorem writeByte_fresh (a : Nat) (b : Byte) : (writeByte s a b).fresh = s.fresh := rfl
@[simp] theorem writeByte_memSeed (a : Nat) (b : Byte) : (writeByte s a b).memSeed = s.memSeed := rfl

/-! ### writeWord -/

@[simp] theorem writeWord_cfg (a : Nat) (w : Word) : (writeWord s a w).cfg = s.cfg := by simp only [writeWord, writeByte_cfg]
@[simp] theorem writeWord_auto (a : Nat) (w : Word) : (writeWord s a w).auto = s.auto := by simp only [writeWord, writeByte_auto]
@[simp] theorem writeWord_ie (a : Nat) (w : Word) : (writeWord s a w).ie = s.ie := by simp only [writeWord, writeByte_ie]
@[simp] theorem writeWord_iee (a : Nat) (w : Word) : (writeWord s a w).iee = s.iee := by simp only [writeWord, writeByte_iee]
@[simp] theorem writeWord_flags (a : Nat) (w : Word) : (writeWord s a w).flags = s.flags := by simp only [writeWord, writeByte_flags]
@[simp] theorem writeWord_cmd (a : Nat) (w : Word) : (writeWord s a w).cmd = s.cmd := by simp only [writeWord, writeByte_cmd]
@[simp] theorem writeWord_cursor (a : Nat) (w : Word) : (writeWord s a w).cursor = s.cursor := by simp only [writeWord, writeByte_cursor]
@[simp] theorem writeWord_blkcnt (a : Nat) (w : Word) : (writeWord s a w).blkcnt = s.blkcnt := by simp only [writeWord, writeByte_blkcnt]
@[simp] theorem writeWord_v (a : Nat) (w : Word) : (writeWord s a w).v = s.v := by simp only [writeWord, writeByte_v]
@[simp] theorem writeWord_pending (a : Nat) (w : Word) : (writeWord s a w).pending = s.pending := by simp only [writeWord, writeByte_pending]
@[simp] theorem writeWord_fsm (a : Nat) (w : Word) : (writeWord s a w).fsm = s.fsm := by simp only [writeWord, writeByte_fsm]
@[simp] theorem writeWord_evt (a : Nat) (w : Word) : (writeWord s a w).evt = s.evt := by simp only [writeWord, writeByte_evt]
@[simp] theorem writeWord_trace (a : Nat) (w : Word) : (writeWord s a w).trace = s.trace := by simp only [writeWord, writeByte_trace]
@[simp] theorem writeWord_schedule (a : Nat) (w : Word) : (writeWord s a w).schedule = s.schedule := by simp only [writeWord, writeByte_schedule]
@[simp] theorem writeWord_readLog (a : Nat) (w : Word) : (writeWord s a w).readLog = s.readLog := by simp only [writeWord, writeByte_readLog]
@[simp] theorem writeWord_fresh (a : Nat) (w : Word) : (writeWord s a w).fresh = s.fresh := by simp only [writeWord, writeByte_fresh]
@[simp] theorem writeWord_memSeed (a : Nat) (w : Word) : (writeWord s a w).memSeed = s.memSeed := by simp only [writeWord, writeByte_memSeed]

/-! ### writeScaled -/

@[simp] theorem writeScaled_cfg (a : Nat) (x : Scaled) : (writeScaled s a x).cfg = s.cfg := by simp only [writeScaled, writeByte_cfg, writeWord_cfg]
@[simp] theorem writeScaled_auto (a : Nat) (x : Scaled) : (writeScaled s a x).auto = s.auto := by simp only [writeScaled, writeByte_auto, writeWord_auto]
@[simp] theorem writeScaled_ie (a : Nat) (x : Scaled) : (writeScaled s a x).ie = s.ie := by simp only [writeScaled, writeByte_ie, writeWord_ie]
@[simp] theorem writeScaled_iee (a : Nat) (x : Scaled) : (writeScaled s a x).iee = s.iee := by simp only [writeScaled, writeByte_iee, writeWord_iee]
@[simp] theorem writeScaled_flags (a : Nat) (x : Scaled) : (writeScaled s a x).flags = s.flags := by simp only [writeScaled, writeByte_flags, writeWord_flags]
@[simp] theorem writeScaled_cmd (a : Nat) (x : Scaled) : (writeScaled s a x).cmd = s.cmd := by simp only [writeScaled, writeByte_cmd, writeWord_cmd]
@[simp] theorem writeScaled_cursor (a : Nat) (x : Scaled) : (writeScaled s a x).cursor = s.cursor := by simp only [writeScaled, writeByte_cursor, writeWord_cursor]
@[simp] theorem writeScaled_blkcnt (a : Nat) (x : Scaled) : (writeScaled s a x).blkcnt = s.blkcnt := by simp only [writeScaled, writeByte_blkcnt, writeWord_blkcnt]
@[simp] theorem writeScaled_v (a : Nat) (x : Scaled) : (writeScaled s a x).v = s.v := by simp only [writeScaled, writeByte_v, writeWord_v]
@[simp] theorem writeScaled_pending (a : Nat) (x : Scaled) : (writeScaled s a x).pending = s.pending := by simp only [writeScaled, writeByte_pending, writeWord_pending]
@[simp] theorem writeScaled_fsm (a : Nat) (x : Scaled) : (writeScaled s a x).fsm = s.fsm := by simp only [writeScaled, writeByte_fsm, writeWord_fsm]
@[simp] theorem writeScaled_evt (a : Nat) (x : Scaled) : (writeScaled s a x).evt = s.evt := by simp only [writeScaled, writeByte_evt, writeWord_evt]
@[simp] theorem writeScaled_trace (a : Nat) (x : Scaled) : (writeScaled s a x).trace = s.trace := by simp only [writeScaled, writeByte_trace, writeWord_trace]
@[simp] theorem writeScaled_schedule (a : Nat) (x : Scaled) : (writeScaled s a x).schedule = s.schedule := by simp only [writeScaled, writeByte_schedule, writeWord_schedule]
@[simp] theorem writeScaled_readLog (a : Nat) (x : Scaled) : (writeScaled s a x).readLog = s.readLog := by simp only [writeScaled, writeByte_readLog, writeWord_readLog]
@[simp] theorem writeScaled_fresh (a : Nat) (x : Scaled) : (writeScaled s a x).fresh = s.fresh := by simp only [writeScaled, writeByte_fresh, writeWord_fresh]
@[simp] theorem writeScaled_memSeed (a : Nat) (x : Scaled) : (writeScaled s a x).memSeed = s.memSeed := by simp only [writeScaled, writeByte_memSeed, writeWord_memSeed]

/-! ### writeRaw -/

@[simp] theorem writeRaw_cfg (a : Nat) (w : Word) : (writeRaw s a w).cfg = s.cfg := by simp only [writeRaw, writeWord_cfg]
@[simp] theorem writeRaw_auto (a : Nat) (w : Word) : (writeRaw s a w).auto = s.auto := by simp only [writeRaw, writeWord_auto]
@[simp] theorem writeRaw_ie (a : Nat) (w : Word) : (writeRaw s a w).ie = s.ie := by simp only [writeRaw, writeWord_ie]
@[simp] theorem writeRaw_iee (a : Nat) (w : Word) : (writeRaw s a w).iee = s.iee := by simp only [writeRaw, writeWord_iee]
@[simp] theorem writeRaw_flags (a : Nat) (w : Word) : (writeRaw s a w).flags = s.flags := by simp only [writeRaw, writeWord_flags]
@[simp] theorem writeRaw_cmd (a : Nat) (w : Word) : (writeRaw s a w).cmd = s.cmd := by simp only [writeRaw, writeWord_cmd]
@[simp] theorem writeRaw_cursor (a : Nat) (w : Word) : (writeRaw s a w).cursor = s.cursor := by simp only [writeRaw, writeWord_cursor]
@[simp] theorem writeRaw_blkcnt (a : Nat) (w : Word) : (writeRaw s a w).blkcnt = s.blkcnt := by simp only [writeRaw, writeWord_blkcnt]
@[simp] theorem writeRaw_v (a : Nat) (w : Word) : (writeRaw s a w).v = s.v := by simp only [writeRaw, writeWord_v]
@[simp] theorem writeRaw_pending (a : Nat) (w : Word) : (writeRaw s a w).pending = s.pending := by simp only [writeRaw, writeWord_pending]
@[simp] theorem writeRaw_fsm (a : Nat) (w : Word) : (writeRaw s a w).fsm = s.fsm := by simp only [writeRaw, writeWord_fsm]
@[simp] theorem writeRaw_evt (a : Nat) (w : Word) : (writeRaw s a w).evt = s.evt := by simp only [writeRaw, writeWord_evt]
@[simp] theorem writeRaw_trace (a : Nat) (w : Word) : (writeRaw s a w).trace = s.trace := by simp only [writeRaw, writeWord_trace]
@[simp] theorem writeRaw_schedule (a : Nat) (w : Word) : (writeRaw s a w).schedule = s.schedule := by simp only [writeRaw, writeWord_schedule]
@[simp] theorem writeRaw_readLog (a : Nat) (w : Word) : (writeRaw s a w).readLog = s.readLog := by simp only [writeRaw, writeWord_readLog]
@[simp] theorem writeRaw_fresh (a : Nat) (w : Word) : (writeRaw s a w).fresh = s.fresh := by simp only [writeRaw, writeWord_fresh]
@[simp] theorem writeRaw_memSeed (a : Nat) (w : Word) : (writeRaw s a w).memSeed = s.memSeed := by simp only [writeRaw, writeWord_memSeed]

/-! ### writeHalf -/

@[simp] theorem writeHalf_cfg (a : Nat) (w : Word) (h : Half) : (writeHalf s a w h).cfg = s.cfg := by cases h <;> simp only [writeHalf, writeByte_cfg, writeWord_cfg]
@[simp] theorem writeHalf_auto (a : Nat) (w : Word) (h : Half) : (writeHalf s a w h).auto = s.auto := by cases h <;> simp only [writeHalf, writeByte_auto, writeWord_auto]
@[simp] theorem writeHalf_ie (a : Nat) (w : Word) (h : Half) : (writeHalf s a w h).ie = s.ie := by cases h <;> simp only [writeHalf, writeByte_ie, writeWord_ie]
@[simp] theorem writeHalf_iee (a : Nat) (w : Word) (h : Half) : (writeHalf s a w h).iee = s.iee := by cases h <;> simp only [writeHalf, writeByte_iee, writeWord_iee]
@[simp] theorem writeHalf_flags (a : Nat) (w : Word) (h : Half) : (writeHalf s a w h).flags = s.flags := by cases h <;> simp only [writeHalf, writeByte_flags, writeWord_flags]
@[simp] theorem writeHalf_cmd (a : Nat) (w : Word) (h : Half) : (writeHalf s a w h).cmd = s.cmd := by cases h <;> simp only [writeHalf, writeByte_cmd, writeWord_cmd]
@[simp] theorem writeHalf_cursor (a : Nat) (w : Word) (h : Half) : (writeHalf s a w h).cursor = s.cursor := by cases h <;> simp only [writeHalf, writeByte_cursor, writeWord_cursor]
@[simp] theorem writeHalf_blkcnt (a : Nat) (w : Word) (h : Half) : (writeHalf s a w h).blkcnt = s.blkcnt := by cases h <;> simp only [writeHalf, writeByte_blkcnt, writeWord_blkcnt]
@[simp] theorem writeHalf_v (a : Nat) (w : Word) (h : Half) : (writeHalf s a w h).v = s.v := by cases h <;> simp only [writeHalf, writeByte_v, writeWord_v]
@[simp] theorem writeHalf_pending (a : Nat) (w : Word) (h : Half) : (writeHalf s a w h).pending = s.pending := by cases h <;> simp only [writeHalf, writeByte_pending, writeWord_pending]
@[simp] theorem writeHalf_fsm (a : Nat) (w : Word) (h : Half) : (writeHalf s a w h).fsm = s.fsm := by cases h <;> simp only [writeHalf, writeByte_fsm, writeWord_fsm]
@[simp] theorem writeHalf_evt (a : Nat) (w : Word) (h : Half) : (writeHalf s a w h).evt = s.evt := by cases h <;> simp only [writeHalf, writeByte_evt, writeWord_evt]
@[simp] theorem writeHalf_trace (a : Nat) (w : Word) (h : Half) : (writeHalf s a w h).trace = s.trace := by cases h <;> simp only [writeHalf, writeByte_trace, writeWord_trace]
@[simp] theorem writeHalf_schedule (a : Nat) (w : Word) (h : Half) : (writeHalf s a w h).schedule = s.schedule := by cases h <;> simp only [writeHalf, writeByte_schedule, writeWord_schedule]
@[simp] theorem writeHalf_readLog (a : Nat) (w : Word) (h : Half) : (writeHalf s a w h).readLog = s.readLog := by cases h <;> simp only [writeHalf, writeByte_readLog, writeWord_readLog]
@[simp] theorem writeHalf_fresh (a : Nat) (w : Word) (h : Half) : (writeHalf s a w h).fresh = s.fresh := by cases h <;> simp only [writeHalf, writeByte_fresh, writeWord_fresh]
@[simp] theorem writeHalf_memSeed (a : Nat) (w : Word) (h : Half) : (writeHalf s a w h).memSeed = s.memSeed := by cases h <;> simp only [writeHalf, writeByte_memSeed, writeWord_memSeed]

/-! ### pushDl -/

@[simp] theorem pushDl_cfg (ch : Nat) (x : Scaled) : (pushDl s ch x).cfg = s.cfg := by simp only [pushDl, writeScaled_cfg]
@[simp] theorem pushDl_auto (ch : Nat) (x : Scaled) : (pushDl s ch x).auto = s.auto := by simp only [pushDl, writeScaled_auto]
@[simp] theorem pushDl_ie (ch : Nat) (x : Scaled) : (pushDl s ch x).ie = s.ie := by simp only [pushDl, writeScaled_ie]
@[simp] theorem pushDl_iee (ch : Nat) (x : Scaled) : (pushDl s ch x).iee = s.iee := by simp only [pushDl, writeScaled_iee]
@[simp] theorem pushDl_flags (ch : Nat) (x : Scaled) : (pushDl s ch x).flags = s.flags := by simp only [pushDl, writeScaled_flags]
@[simp] theorem pushDl_cmd (ch : Nat) (x : Scaled) : (pushDl s ch x).cmd = s.cmd := by simp only [pushDl, writeScaled_cmd]
@[simp] theorem pushDl_cursor (ch : Nat) (x : Scaled) : (pushDl s ch x).cursor = s.cursor := by simp only [pushDl, writeScaled_cursor]
@[simp] theorem pushDl_blkcnt (ch : Nat) (x : Scaled) : (pushDl s ch x).blkcnt = s.blkcnt := by simp only [pushDl, writeScaled_blkcnt]
@[simp] theorem pushDl_v (ch : Nat) (x : Scaled) : (pushDl s ch x).v = s.v := by simp only [pushDl, writeScaled_v]
@[simp] theorem pushDl_pending (ch : Nat) (x : Scaled) : (pushDl s ch x).pending = s.pending := by simp only [pushDl, writeScaled_pending]
@[simp] theorem pushDl_fsm (ch : Nat) (x : Scaled) : (pushDl s ch x).fsm = s.fsm := by simp only [pushDl, writeScaled_fsm]
@[simp] theorem pushDl_evt (ch : Nat) (x : Scaled) : (pushDl s ch x).evt = s.evt := by simp only [pushDl, writeScaled_evt]
@[simp] theorem pushDl_trace (ch : Nat) (x : Scaled) : (pushDl s ch x).trace = s.trace := by simp only [pushDl, writeScaled_trace]
@[simp] theorem pushDl_schedule (ch : Nat) (x : Scaled) : (pushDl s ch x).schedule = s.schedule := by simp only [pushDl, writeScaled_schedule]
@[simp] theorem pushDl_readLog (ch : Nat) (x : Scaled) : (pushDl s ch x).readLog = s.readLog := by simp only [pushDl, writeScaled_readLog]
@[simp] theorem pushDl_fresh (ch : Nat) (x : Scaled) : (pushDl s ch x).fresh = s.fresh := by simp only [pushDl, writeScaled_fresh]
@[simp] theorem pushDl_memSeed (ch : Nat) (x : Scaled) : (pushDl s ch x).memSeed = s.memSeed := by simp only [pushDl, writeScaled_memSeed]

/-! ### writeV -/

@[simp] theorem writeV_cfg (r : Reg) (x : Scaled) : (writeV s r x).cfg = s.cfg := rfl
@[simp] theorem writeV_auto (r : Reg) (x : Scaled) : (writeV s r x).auto = s.auto := rfl
@[simp] theorem writeV_ie (r : Reg) (x : Scaled) : (writeV s r x).ie = s.ie := rfl
@[simp] theorem writeV_iee (r : Reg) (x : Scaled) : (writeV s r x).iee = s.iee := rfl
@[simp] theorem writeV_flags (r : Reg) (x : Scaled) : (writeV s r x).flags = s.flags := rfl
@[simp] theorem writeV_cmd (r : Reg) (x : Scaled) : (writeV s r x).cmd = s.cmd := rfl
@[simp] theorem writeV_cursor (r : Reg) (x : Scaled) : (writeV s r x).cursor = s.cursor := rfl
@[simp] theorem writeV_blkcnt (r : Reg) (x : Scaled) : (writeV s r x).blkcnt = s.blkcnt := rfl
@[simp] theorem writeV_v (r : Reg) (x : Scaled) : (writeV s r x).v = s.v.set r.toNat x r.isLt := rfl
@[simp] theorem writeV_mem (r : Reg) (x : Scaled) : (writeV s r x).mem = s.mem := rfl
@[simp] theorem writeV_pending (r : Reg) (x : Scaled) : (writeV s r x).pending = s.pending := rfl
@[simp] theorem writeV_fsm (r : Reg) (x : Scaled) : (writeV s r x).fsm = s.fsm := rfl
@[simp] theorem writeV_evt (r : Reg) (x : Scaled) : (writeV s r x).evt = s.evt := rfl
@[simp] theorem writeV_trace (r : Reg) (x : Scaled) : (writeV s r x).trace = s.trace := rfl
@[simp] theorem writeV_schedule (r : Reg) (x : Scaled) : (writeV s r x).schedule = s.schedule := rfl
@[simp] theorem writeV_readLog (r : Reg) (x : Scaled) : (writeV s r x).readLog = s.readLog := rfl
@[simp] theorem writeV_fresh (r : Reg) (x : Scaled) : (writeV s r x).fresh = s.fresh := rfl
@[simp] theorem writeV_memSeed (r : Reg) (x : Scaled) : (writeV s r x).memSeed = s.memSeed := rfl

/-! ### complete -/

@[simp] theorem complete_cfg : (complete s).cfg = s.cfg := rfl
@[simp] theorem complete_auto : (complete s).auto = s.auto := rfl
@[simp] theorem complete_ie : (complete s).ie = s.ie := rfl
@[simp] theorem complete_iee : (complete s).iee = s.iee := rfl
@[simp] theorem complete_flags : (complete s).flags = s.flags ||| s.evt ||| Flag.done.mask := rfl
@[simp] theorem complete_cmd : (complete s).cmd = s.cmd := rfl
@[simp] theorem complete_cursor : (complete s).cursor = s.cursor := rfl
@[simp] theorem complete_blkcnt : (complete s).blkcnt = s.blkcnt := rfl
@[simp] theorem complete_v : (complete s).v = s.v := rfl
@[simp] theorem complete_mem : (complete s).mem = s.mem := rfl
@[simp] theorem complete_pending : (complete s).pending = s.pending := rfl
@[simp] theorem complete_fsm : (complete s).fsm = .idle := rfl
@[simp] theorem complete_evt : (complete s).evt = s.evt := rfl
@[simp] theorem complete_trace : (complete s).trace = s.trace := rfl
@[simp] theorem complete_schedule : (complete s).schedule = s.schedule := rfl
@[simp] theorem complete_readLog : (complete s).readLog = s.readLog := rfl
@[simp] theorem complete_fresh : (complete s).fresh = s.fresh := rfl
@[simp] theorem complete_memSeed : (complete s).memSeed = s.memSeed := rfl

/-! ### rejectIllegal -/

@[simp] theorem rejectIllegal_cfg : (rejectIllegal s).cfg = s.cfg := rfl
@[simp] theorem rejectIllegal_auto : (rejectIllegal s).auto = s.auto := rfl
@[simp] theorem rejectIllegal_ie : (rejectIllegal s).ie = s.ie := rfl
@[simp] theorem rejectIllegal_iee : (rejectIllegal s).iee = s.iee := rfl
@[simp] theorem rejectIllegal_flags : (rejectIllegal s).flags = s.flags ||| Flag.ill.mask ||| Flag.done.mask := rfl
@[simp] theorem rejectIllegal_cmd : (rejectIllegal s).cmd = s.cmd := rfl
@[simp] theorem rejectIllegal_cursor : (rejectIllegal s).cursor = s.cursor := rfl
@[simp] theorem rejectIllegal_blkcnt : (rejectIllegal s).blkcnt = s.blkcnt := rfl
@[simp] theorem rejectIllegal_v : (rejectIllegal s).v = s.v := rfl
@[simp] theorem rejectIllegal_mem : (rejectIllegal s).mem = s.mem := rfl
@[simp] theorem rejectIllegal_pending : (rejectIllegal s).pending = s.pending := rfl
@[simp] theorem rejectIllegal_fsm : (rejectIllegal s).fsm = .idle := rfl
@[simp] theorem rejectIllegal_evt : (rejectIllegal s).evt = s.evt := rfl
@[simp] theorem rejectIllegal_trace : (rejectIllegal s).trace = s.trace := rfl
@[simp] theorem rejectIllegal_schedule : (rejectIllegal s).schedule = s.schedule := rfl
@[simp] theorem rejectIllegal_readLog : (rejectIllegal s).readLog = s.readLog := rfl
@[simp] theorem rejectIllegal_fresh : (rejectIllegal s).fresh = s.fresh := rfl
@[simp] theorem rejectIllegal_memSeed : (rejectIllegal s).memSeed = s.memSeed := rfl

/-! ### finishInit -/

@[simp] theorem finishInit_cfg : (finishInit s).cfg = s.cfg := rfl
@[simp] theorem finishInit_auto : (finishInit s).auto = s.auto := rfl
@[simp] theorem finishInit_ie : (finishInit s).ie = s.ie := rfl
@[simp] theorem finishInit_iee : (finishInit s).iee = s.iee := rfl
@[simp] theorem finishInit_flags : (finishInit s).flags = s.flags := rfl
@[simp] theorem finishInit_cmd : (finishInit s).cmd = s.cmd := rfl
@[simp] theorem finishInit_cursor : (finishInit s).cursor = s.cursor := rfl
@[simp] theorem finishInit_blkcnt : (finishInit s).blkcnt = s.blkcnt := rfl
@[simp] theorem finishInit_v : (finishInit s).v = s.v := rfl
@[simp] theorem finishInit_mem : (finishInit s).mem = s.mem.filter (fun c => !inDl c.1) := rfl
@[simp] theorem finishInit_pending : (finishInit s).pending = s.pending := rfl
@[simp] theorem finishInit_fsm : (finishInit s).fsm = .idle := rfl
@[simp] theorem finishInit_evt : (finishInit s).evt = s.evt := rfl
@[simp] theorem finishInit_trace : (finishInit s).trace = s.trace := rfl
@[simp] theorem finishInit_schedule : (finishInit s).schedule = s.schedule := rfl
@[simp] theorem finishInit_readLog : (finishInit s).readLog = s.readLog := rfl
@[simp] theorem finishInit_fresh : (finishInit s).fresh = s.fresh := rfl
@[simp] theorem finishInit_memSeed : (finishInit s).memSeed = s.memSeed := rfl

/-! ### accept -/

@[simp] theorem accept_cfg (op : Op) : (accept s op).cfg = s.cfg := rfl
@[simp] theorem accept_auto (op : Op) : (accept s op).auto = s.auto := rfl
@[simp] theorem accept_ie (op : Op) : (accept s op).ie = s.ie := rfl
@[simp] theorem accept_iee (op : Op) : (accept s op).iee = s.iee := rfl
@[simp] theorem accept_flags (op : Op) : (accept s op).flags = s.flags := rfl
@[simp] theorem accept_cmd (op : Op) : (accept s op).cmd = s.cmd := rfl
@[simp] theorem accept_cursor (op : Op) : (accept s op).cursor = s.cursor := rfl
@[simp] theorem accept_blkcnt (op : Op) : (accept s op).blkcnt = s.blkcnt := rfl
@[simp] theorem accept_v (op : Op) : (accept s op).v = s.v := rfl
@[simp] theorem accept_mem (op : Op) : (accept s op).mem = s.mem := rfl
@[simp] theorem accept_pending (op : Op) : (accept s op).pending = s.pending := rfl
@[simp] theorem accept_fsm (op : Op) : (accept s op).fsm = .busy op := rfl
@[simp] theorem accept_evt (op : Op) : (accept s op).evt = 0#17 := rfl
@[simp] theorem accept_trace (op : Op) : (accept s op).trace = s.trace := rfl
@[simp] theorem accept_schedule (op : Op) : (accept s op).schedule = s.schedule := rfl
@[simp] theorem accept_readLog (op : Op) : (accept s op).readLog = s.readLog := rfl
@[simp] theorem accept_fresh (op : Op) : (accept s op).fresh = s.fresh := rfl
@[simp] theorem accept_memSeed (op : Op) : (accept s op).memSeed = s.memSeed := rfl

/-! ### cursorAdvance -/

@[simp] theorem cursorAdvance_cfg : (cursorAdvance s).cfg = s.cfg := rfl
@[simp] theorem cursorAdvance_auto : (cursorAdvance s).auto = s.auto := rfl
@[simp] theorem cursorAdvance_ie : (cursorAdvance s).ie = s.ie := rfl
@[simp] theorem cursorAdvance_iee : (cursorAdvance s).iee = s.iee := rfl
@[simp] theorem cursorAdvance_flags : (cursorAdvance s).flags = s.flags := rfl
@[simp] theorem cursorAdvance_cmd : (cursorAdvance s).cmd = s.cmd := rfl
@[simp] theorem cursorAdvance_cursor : (cursorAdvance s).cursor = BitVec.ofNat 32 ((s.cursor.toNat + 1) % s.cfg.T) := rfl
@[simp] theorem cursorAdvance_blkcnt : (cursorAdvance s).blkcnt = s.blkcnt := rfl
@[simp] theorem cursorAdvance_v : (cursorAdvance s).v = s.v := rfl
@[simp] theorem cursorAdvance_mem : (cursorAdvance s).mem = s.mem := rfl
@[simp] theorem cursorAdvance_pending : (cursorAdvance s).pending = s.pending := rfl
@[simp] theorem cursorAdvance_fsm : (cursorAdvance s).fsm = s.fsm := rfl
@[simp] theorem cursorAdvance_evt : (cursorAdvance s).evt = s.evt := rfl
@[simp] theorem cursorAdvance_trace : (cursorAdvance s).trace = s.trace := rfl
@[simp] theorem cursorAdvance_schedule : (cursorAdvance s).schedule = s.schedule := rfl
@[simp] theorem cursorAdvance_readLog : (cursorAdvance s).readLog = s.readLog := rfl
@[simp] theorem cursorAdvance_fresh : (cursorAdvance s).fresh = s.fresh := rfl
@[simp] theorem cursorAdvance_memSeed : (cursorAdvance s).memSeed = s.memSeed := rfl

/-! ### countBlock -/

@[simp] theorem countBlock_cfg : (countBlock s).cfg = s.cfg := rfl
@[simp] theorem countBlock_auto : (countBlock s).auto = s.auto := rfl
@[simp] theorem countBlock_ie : (countBlock s).ie = s.ie := rfl
@[simp] theorem countBlock_iee : (countBlock s).iee = s.iee := rfl
@[simp] theorem countBlock_flags : (countBlock s).flags = s.flags := rfl
@[simp] theorem countBlock_cmd : (countBlock s).cmd = s.cmd := rfl
@[simp] theorem countBlock_cursor : (countBlock s).cursor = s.cursor := rfl
@[simp] theorem countBlock_blkcnt : (countBlock s).blkcnt = s.blkcnt + 1 := rfl
@[simp] theorem countBlock_v : (countBlock s).v = s.v := rfl
@[simp] theorem countBlock_mem : (countBlock s).mem = s.mem := rfl
@[simp] theorem countBlock_pending : (countBlock s).pending = s.pending := rfl
@[simp] theorem countBlock_fsm : (countBlock s).fsm = s.fsm := rfl
@[simp] theorem countBlock_evt : (countBlock s).evt = s.evt := rfl
@[simp] theorem countBlock_trace : (countBlock s).trace = s.trace := rfl
@[simp] theorem countBlock_schedule : (countBlock s).schedule = s.schedule := rfl
@[simp] theorem countBlock_readLog : (countBlock s).readLog = s.readLog := rfl
@[simp] theorem countBlock_fresh : (countBlock s).fresh = s.fresh := rfl
@[simp] theorem countBlock_memSeed : (countBlock s).memSeed = s.memSeed := rfl

/-! ### emitAll -/

@[simp] theorem emitAll_cfg (ws : List Emitted) : (emitAll s ws).cfg = s.cfg := rfl
@[simp] theorem emitAll_auto (ws : List Emitted) : (emitAll s ws).auto = s.auto := rfl
@[simp] theorem emitAll_ie (ws : List Emitted) : (emitAll s ws).ie = s.ie := rfl
@[simp] theorem emitAll_iee (ws : List Emitted) : (emitAll s ws).iee = s.iee := rfl
@[simp] theorem emitAll_flags (ws : List Emitted) : (emitAll s ws).flags = s.flags := rfl
@[simp] theorem emitAll_cmd (ws : List Emitted) : (emitAll s ws).cmd = s.cmd := rfl
@[simp] theorem emitAll_cursor (ws : List Emitted) : (emitAll s ws).cursor = s.cursor := rfl
@[simp] theorem emitAll_blkcnt (ws : List Emitted) : (emitAll s ws).blkcnt = s.blkcnt := rfl
@[simp] theorem emitAll_v (ws : List Emitted) : (emitAll s ws).v = s.v := rfl
@[simp] theorem emitAll_mem (ws : List Emitted) : (emitAll s ws).mem = s.mem := rfl
@[simp] theorem emitAll_pending (ws : List Emitted) : (emitAll s ws).pending = s.pending := rfl
@[simp] theorem emitAll_fsm (ws : List Emitted) : (emitAll s ws).fsm = s.fsm := rfl
@[simp] theorem emitAll_evt (ws : List Emitted) : (emitAll s ws).evt = s.evt := rfl
@[simp] theorem emitAll_trace (ws : List Emitted) : (emitAll s ws).trace = s.trace ++ ws := rfl
@[simp] theorem emitAll_schedule (ws : List Emitted) : (emitAll s ws).schedule = s.schedule := rfl
@[simp] theorem emitAll_readLog (ws : List Emitted) : (emitAll s ws).readLog = s.readLog := rfl
@[simp] theorem emitAll_fresh (ws : List Emitted) : (emitAll s ws).fresh = s.fresh := rfl
@[simp] theorem emitAll_memSeed (ws : List Emitted) : (emitAll s ws).memSeed = s.memSeed := rfl

/-! ### startBlock -/

@[simp] theorem startBlock_cfg : (startBlock s).cfg = s.cfg := rfl
@[simp] theorem startBlock_auto : (startBlock s).auto = s.auto := rfl
@[simp] theorem startBlock_ie : (startBlock s).ie = s.ie := rfl
@[simp] theorem startBlock_iee : (startBlock s).iee = s.iee := rfl
@[simp] theorem startBlock_flags : (startBlock s).flags = s.flags := rfl
@[simp] theorem startBlock_cmd : (startBlock s).cmd = s.cmd := rfl
@[simp] theorem startBlock_cursor : (startBlock s).cursor = s.cursor := rfl
@[simp] theorem startBlock_blkcnt : (startBlock s).blkcnt = s.blkcnt := rfl
@[simp] theorem startBlock_v : (startBlock s).v = s.v := rfl
@[simp] theorem startBlock_mem : (startBlock s).mem = s.mem := rfl
@[simp] theorem startBlock_pending : (startBlock s).pending = false := rfl
@[simp] theorem startBlock_fsm : (startBlock s).fsm = .busy .autoblock := rfl
@[simp] theorem startBlock_evt : (startBlock s).evt = 0#17 := rfl
@[simp] theorem startBlock_trace : (startBlock s).trace = s.trace := rfl
@[simp] theorem startBlock_schedule : (startBlock s).schedule = s.schedule := rfl
@[simp] theorem startBlock_readLog : (startBlock s).readLog = s.readLog := rfl
@[simp] theorem startBlock_fresh : (startBlock s).fresh = s.fresh := rfl
@[simp] theorem startBlock_memSeed : (startBlock s).memSeed = s.memSeed := rfl

/-! ### hostRead -/

@[simp] theorem hostRead_cfg (a : HostAddr) : (hostRead s a).cfg = s.cfg := rfl
@[simp] theorem hostRead_auto (a : HostAddr) : (hostRead s a).auto = s.auto := rfl
@[simp] theorem hostRead_ie (a : HostAddr) : (hostRead s a).ie = s.ie := rfl
@[simp] theorem hostRead_iee (a : HostAddr) : (hostRead s a).iee = s.iee := rfl
@[simp] theorem hostRead_flags (a : HostAddr) : (hostRead s a).flags = s.flags := rfl
@[simp] theorem hostRead_cmd (a : HostAddr) : (hostRead s a).cmd = s.cmd := rfl
@[simp] theorem hostRead_cursor (a : HostAddr) : (hostRead s a).cursor = s.cursor := rfl
@[simp] theorem hostRead_blkcnt (a : HostAddr) : (hostRead s a).blkcnt = s.blkcnt := rfl
@[simp] theorem hostRead_v (a : HostAddr) : (hostRead s a).v = s.v := rfl
@[simp] theorem hostRead_mem (a : HostAddr) : (hostRead s a).mem = s.mem := rfl
@[simp] theorem hostRead_pending (a : HostAddr) : (hostRead s a).pending = s.pending := rfl
@[simp] theorem hostRead_fsm (a : HostAddr) : (hostRead s a).fsm = s.fsm := rfl
@[simp] theorem hostRead_evt (a : HostAddr) : (hostRead s a).evt = s.evt := rfl
@[simp] theorem hostRead_trace (a : HostAddr) : (hostRead s a).trace = s.trace := rfl
@[simp] theorem hostRead_schedule (a : HostAddr) : (hostRead s a).schedule = s.schedule := rfl
@[simp] theorem hostRead_readLog (a : HostAddr) : (hostRead s a).readLog = s.readLog ++ [readData s a] := rfl
@[simp] theorem hostRead_fresh (a : HostAddr) : (hostRead s a).fresh = s.fresh + 1 := rfl
@[simp] theorem hostRead_memSeed (a : HostAddr) : (hostRead s a).memSeed = s.memSeed := rfl

/-! ### writeStatus -/

@[simp] theorem writeStatus_cfg (w : Word) : (writeStatus s w).cfg = s.cfg := rfl
@[simp] theorem writeStatus_auto (w : Word) : (writeStatus s w).auto = s.auto := rfl
@[simp] theorem writeStatus_ie (w : Word) : (writeStatus s w).ie = s.ie := rfl
@[simp] theorem writeStatus_iee (w : Word) : (writeStatus s w).iee = s.iee := rfl
@[simp] theorem writeStatus_flags (w : Word) : (writeStatus s w).flags = s.flags &&& ~~~(w.extractLsb' 7 17) := rfl
@[simp] theorem writeStatus_cmd (w : Word) : (writeStatus s w).cmd = s.cmd := rfl
@[simp] theorem writeStatus_cursor (w : Word) : (writeStatus s w).cursor = s.cursor := rfl
@[simp] theorem writeStatus_blkcnt (w : Word) : (writeStatus s w).blkcnt = s.blkcnt := rfl
@[simp] theorem writeStatus_v (w : Word) : (writeStatus s w).v = s.v := rfl
@[simp] theorem writeStatus_mem (w : Word) : (writeStatus s w).mem = s.mem := rfl
@[simp] theorem writeStatus_pending (w : Word) : (writeStatus s w).pending = s.pending := rfl
@[simp] theorem writeStatus_fsm (w : Word) : (writeStatus s w).fsm = s.fsm := rfl
@[simp] theorem writeStatus_evt (w : Word) : (writeStatus s w).evt = s.evt := rfl
@[simp] theorem writeStatus_trace (w : Word) : (writeStatus s w).trace = s.trace := rfl
@[simp] theorem writeStatus_schedule (w : Word) : (writeStatus s w).schedule = s.schedule := rfl
@[simp] theorem writeStatus_readLog (w : Word) : (writeStatus s w).readLog = s.readLog := rfl
@[simp] theorem writeStatus_fresh (w : Word) : (writeStatus s w).fresh = s.fresh := rfl
@[simp] theorem writeStatus_memSeed (w : Word) : (writeStatus s w).memSeed = s.memSeed := rfl

/-! ### applyReset -/

@[simp] theorem applyReset_cfg : (applyReset s).cfg = s.cfg := rfl
@[simp] theorem applyReset_auto : (applyReset s).auto = false := rfl
@[simp] theorem applyReset_ie : (applyReset s).ie = false := rfl
@[simp] theorem applyReset_iee : (applyReset s).iee = false := rfl
@[simp] theorem applyReset_flags : (applyReset s).flags = 0#17 := rfl
@[simp] theorem applyReset_cmd : (applyReset s).cmd = 0#32 := rfl
@[simp] theorem applyReset_cursor : (applyReset s).cursor = 0#32 := rfl
@[simp] theorem applyReset_blkcnt : (applyReset s).blkcnt = 0#32 := rfl
@[simp] theorem applyReset_v : (applyReset s).v = Vector.replicate 16 Scaled.zero := rfl
@[simp] theorem applyReset_mem : (applyReset s).mem = s.mem.filter (fun c => inDl c.1) := rfl
@[simp] theorem applyReset_pending : (applyReset s).pending = false := rfl
@[simp] theorem applyReset_fsm : (applyReset s).fsm = .init := rfl
@[simp] theorem applyReset_evt : (applyReset s).evt = 0#17 := rfl
@[simp] theorem applyReset_trace : (applyReset s).trace = s.trace := rfl
@[simp] theorem applyReset_schedule : (applyReset s).schedule = s.schedule := rfl
@[simp] theorem applyReset_readLog : (applyReset s).readLog = s.readLog := rfl
@[simp] theorem applyReset_fresh : (applyReset s).fresh = s.fresh + 1 := rfl
@[simp] theorem applyReset_memSeed : (applyReset s).memSeed = s.fresh := rfl

end Sys2Proof.Machine
end

