-- ==== Sys2Proof/Laws/Flags.lean ====
section
/-! SUPPORT. Membership in flag sets. -/

namespace Sys2Proof.Machine

theorem Flag.bit_range (f : Flag) : 7 ≤ f.bit ∧ f.bit < 24 := by cases f <;> decide

@[simp] theorem isIn_or (f : Flag) (a b : Flags) : f.isIn (a ||| b) = (f.isIn a || f.isIn b) := by
  simp [Flag.isIn]

@[simp] theorem isIn_zero (f : Flag) : f.isIn 0#17 = false := by simp [Flag.isIn]

@[simp] theorem isIn_mask (f g : Flag) : f.isIn g.mask = decide (f = g) := by
  cases f <;> cases g <;> decide

@[simp] theorem isIn_flagIf (f : Flag) (c : Bool) (g : Flag) :
    f.isIn (flagIf c g) = (c && decide (f = g)) := by
  cases c <;> simp [flagIf]

/-- Every bit of a flag set is some flag's (R24: STATUS bits 7 to 23). -/
theorem Flag.of_bit : ∀ i : Fin 17,
    [Flag.done, .mulRescale, .mulWrap, .addSkip, .alignWrap, .addWrap, .convWrap, .tointLoss,
      .tointWrap, .scaleWrap, .bfOmit, .bfDivloss, .ill, .cmdovr, .hzd, .overrun, .addr].any
      (fun f => f.bit - 7 == i.val) = true := by decide

/-- Two flag sets with the same flags are equal: every bit is a flag's. -/
theorem flags_ext {a b : Flags} (h : ∀ f : Flag, f.isIn a = f.isIn b) : a = b := by
  apply BitVec.eq_of_getLsbD_eq
  intro i hi
  obtain ⟨f, -, hf⟩ := List.any_eq_true.1 (Flag.of_bit ⟨i, hi⟩)
  have e : f.bit - 7 = i := eq_of_beq hf
  rw [← e]
  exact h f

end Sys2Proof.Machine
end

