-- ==== Sys2Proof/Laws/Memory.lean ====
section
/-! SUPPORT. Memory: what a read gives after a write, and that every memory operation keeps the
canonical form. -/

namespace Sys2Proof.Machine

/-! ### Cells -/

theorem cellAt_putCell (m : Memory) (a : Nat) (b : Byte) (x : Nat) :
    cellAt (putCell m a b) x = if x = a then some b else cellAt m x := by
  induction m with
  | nil => simp [putCell, cellAt]
  | cons c m ih =>
    obtain ⟨a', b'⟩ := c
    by_cases h1 : a < a'
    · simp [putCell, h1, cellAt]
    · by_cases h2 : a = a'
      · subst h2
        by_cases h3 : x = a <;> simp [putCell, cellAt, h3]
      · simp only [putCell, h1, h2, if_false, cellAt, ih]
        by_cases h3 : x = a' <;> by_cases h4 : x = a <;> simp_all

theorem cellAt_filter (m : Memory) (p : Nat → Bool) (x : Nat) :
    cellAt (m.filter (fun c => p c.1)) x = if p x then cellAt m x else none := by
  induction m with
  | nil => simp [cellAt]
  | cons c m ih =>
    obtain ⟨a', b'⟩ := c
    by_cases hp : p a'
    · simp only [List.filter_cons, hp, if_true, cellAt, ih]
      by_cases hx : x = a'
      · simp [hx, hp]
      · simp [hx]
    · rw [List.filter_cons_of_neg (p := fun c : Host.Cell => p c.1) hp, ih]
      by_cases hx : x = a'
      · simp [hx, hp]
      · simp [cellAt, hx]

theorem cellAt_dropCell (m : Memory) (a x : Nat) :
    cellAt (dropCell m a) x = if x = a then none else cellAt m x := by
  have h := cellAt_filter m (fun y => decide (y ≠ a)) x
  simp only [dropCell]
  rw [h]
  by_cases hx : x = a <;> simp [hx]

theorem inDl_iff (a : Nat) : inDl a = true ↔ 0x300000 ≤ a ∧ a < 0x400000 := by
  simp only [inDl, decide_eq_true_eq]
  exact Iff.rfl

/-! ### The canonical form -/

theorem fst_mem_putCell {m : Memory} {a : Nat} {b : Byte} {c : Host.Cell}
    (h : c ∈ putCell m a b) : c = (a, b) ∨ c ∈ m := by
  induction m with
  | nil => simpa [putCell] using h
  | cons d m ih =>
    obtain ⟨a', b'⟩ := d
    simp only [putCell] at h
    split at h
    · simpa using h
    · split at h
      · simp only [List.mem_cons] at h ⊢
        rcases h with h | h
        · exact .inl h
        · exact .inr (.inr h)
      · simp only [List.mem_cons] at h ⊢
        rcases h with h | h
        · exact .inr (.inl h)
        · rcases ih h with h | h
          · exact .inl h
          · exact .inr (.inr h)

theorem rising_putCell {m : Memory} (a : Nat) (b : Byte)
    (h : (m.map Prod.fst).Pairwise (· < ·)) : ((putCell m a b).map Prod.fst).Pairwise (· < ·) := by
  induction m with
  | nil => simp [putCell]
  | cons d m ih =>
    obtain ⟨a', b'⟩ := d
    simp only [List.map_cons, List.pairwise_cons] at h
    obtain ⟨h1, h2⟩ := h
    simp only [putCell]
    split
    · rename_i hlt
      simp only [List.map_cons, List.pairwise_cons, List.mem_cons, forall_eq_or_imp]
      exact ⟨⟨hlt, fun y hy => Nat.lt_trans hlt (h1 y hy)⟩, h1, h2⟩
    · split
      · rename_i heq
        subst heq
        simp only [List.map_cons, List.pairwise_cons]
        exact ⟨h1, h2⟩
      · rename_i h3 h4
        simp only [List.map_cons, List.pairwise_cons]
        refine ⟨?_, ih h2⟩
        intro y hy
        obtain ⟨c, hc, rfl⟩ := List.mem_map.1 hy
        rcases fst_mem_putCell hc with rfl | hc
        · exact Nat.lt_of_le_of_ne (Nat.le_of_not_lt h3) (Ne.symm h4)
        · exact h1 _ (List.mem_map_of_mem hc)

theorem wf_filter {m : Memory} (p : Host.Cell → Bool) (h : Memory.wf m) : Memory.wf (m.filter p) :=
  ⟨h.1.sublist (List.filter_sublist.map Prod.fst), fun c hc => h.2 c (List.mem_of_mem_filter hc)⟩

theorem wf_setCell {m : Memory} (a : Nat) (b : Byte) (h : Memory.wf m) :
    Memory.wf (setCell m a b) := by
  unfold setCell
  split
  · exact wf_filter _ h
  · rename_i hne
    refine ⟨rising_putCell a b h.1, fun c hc => ?_⟩
    rcases fst_mem_putCell hc with rfl | hc
    · exact hne
    · exact h.2 c hc

theorem wf_nil : Memory.wf [] := ⟨List.Pairwise.nil, by simp⟩

theorem wf_writeByte {s : State} (a : Nat) (b : Byte) (h : Memory.wf s.mem) :
    Memory.wf (writeByte s a b).mem := wf_setCell a b h

theorem wf_writeWord {s : State} (a : Nat) (w : Word) (h : Memory.wf s.mem) :
    Memory.wf (writeWord s a w).mem := by
  unfold writeWord
  exact wf_writeByte _ _ (wf_writeByte _ _ (wf_writeByte _ _ (wf_writeByte _ _ h)))

theorem wf_writeScaled {s : State} (a : Nat) (x : Scaled) (h : Memory.wf s.mem) :
    Memory.wf (writeScaled s a x).mem := wf_writeByte _ _ (wf_writeWord _ _ h)

theorem wf_writeRaw {s : State} (a : Nat) (w : Word) (h : Memory.wf s.mem) :
    Memory.wf (writeRaw s a w).mem := wf_writeWord _ _ h

theorem wf_writeHalf {s : State} (a : Nat) (w : Word) (half : Half) (h : Memory.wf s.mem) :
    Memory.wf (writeHalf s a w half).mem := by
  cases half
  · exact wf_writeWord _ _ h
  · exact wf_writeByte _ _ h

theorem wf_applyReset {s : State} (h : Memory.wf s.mem) : Memory.wf (applyReset s).mem :=
  wf_filter _ h

theorem wf_finishInit {s : State} (h : Memory.wf s.mem) : Memory.wf (finishInit s).mem :=
  wf_filter _ h

/-! ### Reading -/

/-- A read depends on the cells and the free contents alone. -/
theorem readByte_congr {s t : State} (h1 : t.mem = s.mem) (h2 : t.memSeed = s.memSeed) (a : Nat) :
    readByte t a = readByte s a := by simp only [readByte, h1, h2]

theorem readWord_congr {s t : State} (h1 : t.mem = s.mem) (h2 : t.memSeed = s.memSeed) (a : Nat) :
    readWord t a = readWord s a := by simp only [readWord, readByte_congr h1 h2]

theorem readScaled_congr {s t : State} (h1 : t.mem = s.mem) (h2 : t.memSeed = s.memSeed) (a : Nat) :
    readScaled t a = readScaled s a := by simp only [readScaled, readByte_congr h1 h2, readWord_congr h1 h2]

/-- A byte write reads back, and leaves every other byte as it was. -/
theorem readByte_writeByte (s : State) (a : Nat) (b : Byte) (x : Nat) :
    readByte (writeByte s a b) x = if x = a then b else readByte s x := by
  simp only [readByte, writeByte_mem, writeByte_memSeed, setCell]
  by_cases hu : unlisted a = some b
  · simp only [hu, if_true, cellAt_dropCell]
    by_cases hx : x = a
    · subst hx; simp [hu]
    · simp [hx]
  · simp only [hu, if_false, cellAt_putCell]
    by_cases hx : x = a
    · simp [hx]
    · simp [hx]

theorem readByte_writeWord (s : State) (a : Nat) (w : Word) (x : Nat) :
    readByte (writeWord s a w) x =
      if x = a + 3 then w.extractLsb' 24 8 else if x = a + 2 then w.extractLsb' 16 8
      else if x = a + 1 then w.extractLsb' 8 8 else if x = a then w.extractLsb' 0 8
      else readByte s x := by
  simp only [writeWord, readByte_writeByte]

theorem readByte_writeScaled (s : State) (a : Nat) (v : Scaled) (x : Nat) :
    readByte (writeScaled s a v) x = if x = a + 4 then v.s else readByte (writeWord s a v.m) x := by
  simp only [writeScaled, readByte_writeByte]

/-- The four lanes of a word, put together again. -/
theorem word_of_lanes (w : Word) :
    w.extractLsb' 24 8 ++ w.extractLsb' 16 8 ++ w.extractLsb' 8 8 ++ w.extractLsb' 0 8 = w := by
  apply BitVec.eq_of_getLsbD_eq
  intro i hi
  simp only [BitVec.getLsbD_append, BitVec.getLsbD_extractLsb']
  by_cases h1 : i < 8
  · simp [h1]
  · by_cases h2 : i - 8 < 8
    · simp [h1, h2]; congr 1; omega
    · by_cases h3 : i - 8 - 8 < 8
      · simp [h1, h2, h3]; congr 1; omega
      · have h4 : i - 8 - 8 - 8 < 8 := by omega
        simp [h1, h2, h3, h4]; congr 1; omega

/-- A word write reads back. -/
@[simp] theorem readWord_writeWord_same (s : State) (a : Nat) (w : Word) :
    readWord (writeWord s a w) a = w := by
  have h := word_of_lanes w
  simp only [readWord, readByte_writeWord]
  simpa using h

/-- A word write leaves every byte outside its four lanes. -/
theorem readByte_writeWord_outside (s : State) {a x : Nat} (w : Word) (h : x < a ∨ a + 4 ≤ x) :
    readByte (writeWord s a w) x = readByte s x := by
  rw [readByte_writeWord]
  have h0 : x ≠ a := by omega
  have h1 : x ≠ a + 1 := by omega
  have h2 : x ≠ a + 2 := by omega
  have h3 : x ≠ a + 3 := by omega
  simp [h0, h1, h2, h3]

/-- A scaled-value write leaves every byte outside its five storage bytes. -/
theorem readByte_writeScaled_outside (s : State) {a x : Nat} (v : Scaled) (h : x < a ∨ a + 5 ≤ x) :
    readByte (writeScaled s a v) x = readByte s x := by
  have h4 : x ≠ a + 4 := by omega
  rw [readByte_writeScaled, if_neg h4]
  exact readByte_writeWord_outside s v.m (by omega)

theorem readWord_writeByte_outside (s : State) {a x : Nat} (b : Byte) (h : a < x ∨ x + 4 ≤ a) :
    readWord (writeByte s a b) x = readWord s x := by
  have h0 : x ≠ a := by omega
  have h1 : x + 1 ≠ a := by omega
  have h2 : x + 2 ≠ a := by omega
  have h3 : x + 3 ≠ a := by omega
  simp only [readWord, readByte_writeByte, h0, h1, h2, h3, if_false]

/-- A scaled-value write reads back. -/
@[simp] theorem readScaled_writeScaled_same (s : State) (a : Nat) (v : Scaled) :
    readScaled (writeScaled s a v) a = v := by
  obtain ⟨m, sc⟩ := v
  simp only [readScaled, Scaled.mk.injEq]
  constructor
  · rw [writeScaled, readWord_writeByte_outside _ _ (by omega), readWord_writeWord_same]
  · simp [readByte_writeScaled]

/-- A scaled-value write leaves every scaled value whose bytes it does not touch. -/
theorem readScaled_writeScaled_apart (s : State) {a x : Nat} (v : Scaled)
    (h : x + 5 ≤ a ∨ a + 5 ≤ x) : readScaled (writeScaled s a v) x = readScaled s x := by
  have hb : ∀ k, k < 5 → readByte (writeScaled s a v) (x + k) = readByte s (x + k) := fun k hk =>
    readByte_writeScaled_outside s v (by omega)
  have h0 := hb 0 (by omega)
  simp only [Nat.add_zero] at h0
  simp only [readScaled, readWord, h0, hb 1 (by omega), hb 2 (by omega), hb 3 (by omega),
    hb 4 (by omega)]

/-- Every byte of two memories equal, then every scaled value equal. -/
theorem readScaled_of_bytes {s t : State} (x : Nat)
    (h : ∀ k, k < 5 → readByte t (x + k) = readByte s (x + k)) : readScaled t x = readScaled s x := by
  have h0 := h 0 (by omega)
  simp only [Nat.add_zero] at h0
  simp only [readScaled, readWord, h0, h 1 (by omega), h 2 (by omega), h 3 (by omega),
    h 4 (by omega)]

/-! ### V registers -/

/-- A V register write reads back, and leaves every other V register. -/
theorem readV_writeV (s : State) (r : Reg) (x : Scaled) (q : Reg) :
    readV (writeV s r x) q = if q = r then x else readV s q := by
  simp only [readV, writeV_v, Vector.getElem_set]
  by_cases h : q = r
  · simp [h]
  · have h' : r.toNat ≠ q.toNat := fun e => h (BitVec.eq_of_toNat_eq e.symm)
    simp [h, h']

theorem readV_congr {s t : State} (h : t.v = s.v) (r : Reg) : readV t r = readV s r := by
  simp only [readV, h]

end Sys2Proof.Machine
end

