-- ==== Sys2Proof/Laws/Ops.lean ====
section
/-! SUPPORT. What each shared operation and loop can do, said once. -/

namespace Sys2Proof.Machine

/-! ### Sums -/

@[simp] theorem accumulate_zero (f : Scaled → Nat → Scaled × Flags) :
    accumulate 0 f = (Scaled.zero, 0#17) := rfl

theorem accumulate_succ (n : Nat) (f : Scaled → Nat → Scaled × Flags) :
    accumulate (n + 1) f =
      ((f (accumulate n f).1 n).1, (accumulate n f).2 ||| (f (accumulate n f).1 n).2) := by
  simp only [accumulate, List.range_succ, List.foldl_append, List.foldl_cons, List.foldl_nil]

/-- Two sums with the same terms below `n` are the same sum. -/
theorem accumulate_congr {n : Nat} {f g : Scaled → Nat → Scaled × Flags}
    (h : ∀ acc i, i < n → f acc i = g acc i) : accumulate n f = accumulate n g := by
  induction n with
  | zero => rfl
  | succ n ih =>
    rw [accumulate_succ, accumulate_succ, ih fun acc i hi => h acc i (Nat.lt_succ_of_lt hi),
      h _ n (Nat.lt_succ_self n)]

/-! ### Loops -/

/-- A relation that holds of one state with itself and that every pass of a loop extends holds
between the loop's start and its end. -/
theorem foldl_range_rel {σ : Type} (R : σ → σ → Prop) (f : σ → Nat → σ) (n : Nat) (s : σ)
    (h0 : R s s) (h : ∀ t i, i < n → R s t → R s (f t i)) : R s ((List.range n).foldl f s) := by
  induction n with
  | zero => simpa using h0
  | succ n ih =>
    rw [List.range_succ, List.foldl_append]
    exact h _ n (Nat.lt_succ_self n) (ih fun t i hi => h t i (Nat.lt_succ_of_lt hi))

/-- A property of the start that every pass keeps holds at the end. -/
theorem foldl_range_inv {σ : Type} (P : σ → Prop) (f : σ → Nat → σ) (n : Nat) (s : σ)
    (h0 : P s) (h : ∀ t i, i < n → P t → P (f t i)) : P ((List.range n).foldl f s) :=
  foldl_range_rel (fun _ t => P t) f n s h0 h

/-! ### What an operation leaves alone -/

/-- Only memory and EVT differ. -/
def OnlyMem (s t : State) : Prop := t = { s with mem := t.mem, evt := t.evt }

/-- Only memory, EVT and CURSOR differ. -/
def OnlyMemCursor (s t : State) : Prop :=
  t = { s with mem := t.mem, evt := t.evt, cursor := t.cursor }

theorem onlyMem_refl (s : State) : OnlyMem s s := rfl

theorem onlyMemCursor_refl (s : State) : OnlyMemCursor s s := rfl

theorem OnlyMem.trans {s t u : State} (h1 : OnlyMem s t) (h2 : OnlyMem t u) : OnlyMem s u := by
  unfold OnlyMem at *; rw [h2, h1]

theorem OnlyMemCursor.trans {s t u : State} (h1 : OnlyMemCursor s t) (h2 : OnlyMemCursor t u) :
    OnlyMemCursor s u := by
  unfold OnlyMemCursor at *; rw [h2, h1]

theorem OnlyMem.cursor {s t : State} (h : OnlyMem s t) : OnlyMemCursor s t := by
  unfold OnlyMem OnlyMemCursor at *; rw [h]

theorem onlyMem_writeByte (s : State) (a : Nat) (b : Byte) : OnlyMem s (writeByte s a b) := rfl

theorem onlyMem_raise (s : State) (fs : Flags) : OnlyMem s (s.raise fs) := rfl

theorem onlyMem_writeWord (s : State) (a : Nat) (w : Word) : OnlyMem s (writeWord s a w) := by
  unfold writeWord
  exact (((onlyMem_writeByte _ _ _).trans (onlyMem_writeByte _ _ _)).trans
    (onlyMem_writeByte _ _ _)).trans (onlyMem_writeByte _ _ _)

theorem onlyMem_writeScaled (s : State) (a : Nat) (x : Scaled) : OnlyMem s (writeScaled s a x) :=
  (onlyMem_writeWord _ _ _).trans (onlyMem_writeByte _ _ _)

theorem onlyMem_firStep (s : State) (ch : Nat) (x : Scaled) : OnlyMem s (firStep s ch x).1 :=
  (onlyMem_writeScaled _ _ _).trans (onlyMem_raise _ _)

theorem onlyMem_firStream (n : Nat) (s : State) (ch : Nat) : OnlyMem s (firStream n s ch) :=
  (onlyMem_firStep _ _ _).trans (onlyMem_writeScaled _ _ _)

theorem onlyMemCursor_cursorAdvance (s : State) : OnlyMemCursor s (cursorAdvance s) := rfl

theorem onlyMemCursor_firSample (s : State) (n : Nat) : OnlyMemCursor s (firSample s n) := by
  refine OnlyMemCursor.trans (OnlyMem.cursor ?_) (onlyMemCursor_cursorAdvance _)
  exact foldl_range_rel OnlyMem _ _ _ (onlyMem_refl s) fun t i _ h => h.trans (onlyMem_firStream n t i)

theorem onlyMemCursor_firBank (s : State) : OnlyMemCursor s (firBank s) :=
  foldl_range_rel OnlyMemCursor _ _ _ (onlyMemCursor_refl s) fun t i _ h =>
    h.trans (onlyMemCursor_firSample t i)

theorem onlyMem_writeBin (s t : State) (k : Nat) : OnlyMem t (writeBin s t k) :=
  ((onlyMem_writeScaled _ _ _).trans (onlyMem_writeScaled _ _ _)).trans (onlyMem_raise _ _)

theorem onlyMem_dftBins (s : State) : OnlyMem s (dftBins s) :=
  foldl_range_rel OnlyMem _ _ _ (onlyMem_refl s) fun t i _ h => h.trans (onlyMem_writeBin s t i)

theorem onlyMem_writeOut (s t : State) (i : Nat) : OnlyMem t (writeOut s t i) :=
  (onlyMem_writeScaled _ _ _).trans (onlyMem_raise _ _)

theorem onlyMem_beamAll (s : State) : OnlyMem s (beamAll s) :=
  foldl_range_rel OnlyMem _ _ _ (onlyMem_refl s) fun t i _ h => h.trans (onlyMem_writeOut s t i)

theorem onlyMem_convEntry (s : State) (ch : Nat) (t : State) (n : Nat) :
    OnlyMem t (convEntry s ch t n) :=
  (onlyMem_writeScaled _ _ _).trans (onlyMem_raise _ _)

theorem onlyMem_convChannel (s t : State) (ch : Nat) : OnlyMem t (convChannel s t ch) :=
  foldl_range_rel OnlyMem _ _ _ (onlyMem_refl t) fun u i _ h => h.trans (onlyMem_convEntry s ch u i)

theorem onlyMem_convertAll (s : State) : OnlyMem s (convertAll s) :=
  foldl_range_rel OnlyMem _ _ _ (onlyMem_refl s) fun t i _ h => h.trans (onlyMem_convChannel s t i)

/-! ### The canonical form through the loops -/

theorem wf_pushDl {s : State} (ch : Nat) (x : Scaled) (h : Memory.wf s.mem) :
    Memory.wf (pushDl s ch x).mem := by
  unfold pushDl; exact wf_writeScaled _ _ h

theorem wf_firStep {s : State} (ch : Nat) (x : Scaled) (h : Memory.wf s.mem) :
    Memory.wf (firStep s ch x).1.mem := by
  simp only [firStep, raise_mem]; exact wf_pushDl ch x h

theorem wf_firStream {s : State} (n ch : Nat) (h : Memory.wf s.mem) :
    Memory.wf (firStream n s ch).mem := by
  simp only [firStream]; exact wf_writeScaled _ _ (wf_firStep _ _ h)

theorem wf_firSample {s : State} (n : Nat) (h : Memory.wf s.mem) :
    Memory.wf (firSample s n).mem := by
  simp only [firSample, cursorAdvance_mem]
  exact foldl_range_inv (fun u : State => Memory.wf u.mem) _ _ _ h fun _ _ _ hu => wf_firStream _ _ hu

theorem wf_firBank {s : State} (h : Memory.wf s.mem) : Memory.wf (firBank s).mem := by
  unfold firBank
  exact foldl_range_inv (fun t : State => Memory.wf t.mem) _ _ _ h fun _ _ _ ht => wf_firSample _ ht

theorem wf_writeBin {t : State} (s : State) (k : Nat) (h : Memory.wf t.mem) :
    Memory.wf (writeBin s t k).mem := by
  simp only [writeBin, raise_mem]; exact wf_writeScaled _ _ (wf_writeScaled _ _ h)

theorem wf_dftBins {s : State} (h : Memory.wf s.mem) : Memory.wf (dftBins s).mem := by
  unfold dftBins
  exact foldl_range_inv (fun t : State => Memory.wf t.mem) _ _ _ h fun _ _ _ ht => wf_writeBin _ _ ht

theorem wf_writeOut {t : State} (s : State) (i : Nat) (h : Memory.wf t.mem) :
    Memory.wf (writeOut s t i).mem := by
  simp only [writeOut, raise_mem]; exact wf_writeScaled _ _ h

theorem wf_beamAll {s : State} (h : Memory.wf s.mem) : Memory.wf (beamAll s).mem := by
  unfold beamAll
  exact foldl_range_inv (fun t : State => Memory.wf t.mem) _ _ _ h fun _ _ _ ht => wf_writeOut _ _ ht

theorem wf_convEntry {t : State} (s : State) (ch n : Nat) (h : Memory.wf t.mem) :
    Memory.wf (convEntry s ch t n).mem := by
  simp only [convEntry, raise_mem]; exact wf_writeScaled _ _ h

theorem wf_convertAll {s : State} (h : Memory.wf s.mem) : Memory.wf (convertAll s).mem := by
  unfold convertAll convChannel
  exact foldl_range_inv (fun t : State => Memory.wf t.mem) _ _ _ h fun _ _ _ ht =>
    foldl_range_inv (fun u : State => Memory.wf u.mem) _ _ _ ht fun _ _ _ hu => wf_convEntry _ _ _ hu

/-! ### Control: one inversion lemma per shared operation -/

theorem isBusy_eq (s : State) : isBusy s = true ↔ s.fsm ≠ .idle := by simp [isBusy]

theorem blkReq_eq (s : State) :
    blkReq s = true ↔ s.auto = true ∧ s.fsm = .idle ∧ s.pending = false := by
  simp [blkReq, and_assoc]

theorem quiescent_eq (s : State) :
    quiescent s = true ↔ s.fsm = .idle ∧ ¬(s.auto = true ∧ s.pending = true) := by
  cases ha : s.auto <;> cases hp : s.pending <;> simp [quiescent, ha, hp]

/-- A data write is dropped with HZD, or is the write. -/
theorem whenIdle_cases (s t : State) :
    (s.fsm ≠ .idle ∧ whenIdle s t = s.setFlags Flag.hzd.mask) ∨ (s.fsm = .idle ∧ whenIdle s t = t) := by
  by_cases h : s.fsm = .idle
  · exact .inr ⟨h, by simp [whenIdle, isBusy, h]⟩
  · exact .inl ⟨h, by simp [whenIdle, isBusy, h]⟩

/-- A CMD write is taken, rejected, or dropped. -/
theorem writeCmd_cases (s : State) (w : Word) :
    (s.fsm = .idle ∧ s.auto = false ∧ (∃ i, decode s.cfg w = some i) ∧
      writeCmd s w = accept { s with cmd := w } (.command w)) ∨
    (s.fsm = .idle ∧ s.auto = false ∧ decode s.cfg w = none ∧
      writeCmd s w = rejectIllegal { s with cmd := w }) ∨
    (¬(s.fsm = .idle ∧ s.auto = false) ∧ writeCmd s w = s.setFlags Flag.cmdovr.mask) := by
  by_cases h : s.fsm = .idle ∧ s.auto = false
  · cases hd : decode s.cfg w with
    | none => exact .inr (.inl ⟨h.1, h.2, rfl, by simp [writeCmd, h, hd]⟩)
    | some i => exact .inl ⟨h.1, h.2, ⟨i, rfl⟩, by simp [writeCmd, h, hd]⟩
  · exact .inr (.inr ⟨h, by rw [writeCmd, if_neg h]⟩)

/-- A CTRL write is a reset, or sets the three enables and nothing else. -/
theorem writeCtrl_cases (s : State) (w : Word) :
    (w.getLsbD 31 = true ∧ writeCtrl s w = applyReset s) ∨
    (w.getLsbD 31 = false ∧
      writeCtrl s w = { s with auto := w.getLsbD 0, ie := w.getLsbD 1, iee := w.getLsbD 2 }) := by
  by_cases h : w.getLsbD 31 = true
  · exact .inl ⟨h, by rw [writeCtrl, if_pos h]⟩
  · exact .inr ⟨by simpa using h, by rw [writeCtrl, if_neg h]⟩

/-- A producer write stores one RAW code, or only sets OVERRUN. -/
theorem producerWrite_cases (s : State) (e : Nat) (w : Word) :
    (blkReq s = true ∧ e < s.cfg.C * s.cfg.B ∧
      producerWrite s e w = writeRaw s (rawBase + 4 * e) w) ∨
    (¬(blkReq s = true ∧ e < s.cfg.C * s.cfg.B) ∧
      producerWrite s e w = s.setFlags Flag.overrun.mask) := by
  by_cases h : blkReq s = true ∧ e < s.cfg.C * s.cfg.B
  · exact .inl ⟨h.1, h.2, by rw [producerWrite, if_pos h]⟩
  · exact .inr ⟨h, by rw [producerWrite, if_neg h]⟩

/-- What the sequencer's turn can be. -/
theorem sequencerTurn_cases (s : State) :
    (s.fsm = .init ∧ sequencerTurn s = .next (finishInit s)) ∨
    (∃ w i, s.fsm = .busy (.command w) ∧ decode s.cfg w = some i ∧ sequencerTurn s = exec i s) ∨
    (∃ w, s.fsm = .busy (.command w) ∧ decode s.cfg w = none ∧
      sequencerTurn s = .next (rejectIllegal s)) ∨
    (s.fsm = .busy .autoblock ∧ sequencerTurn s = .next (complete (blockProcess s))) ∨
    (s.fsm = .idle ∧ s.auto = true ∧ s.pending = true ∧ sequencerTurn s = .next (startBlock s)) ∨
    (s.fsm = .idle ∧ ¬(s.auto = true ∧ s.pending = true) ∧ sequencerTurn s = .next s) := by
  cases hf : s.fsm with
  | init => exact .inl ⟨rfl, by simp [sequencerTurn, hf]⟩
  | idle =>
    by_cases h : s.auto = true ∧ s.pending = true
    · exact .inr (.inr (.inr (.inr (.inl ⟨rfl, h.1, h.2, by simp [sequencerTurn, hf, h]⟩))))
    · exact .inr (.inr (.inr (.inr (.inr ⟨rfl, h, by simp only [sequencerTurn, hf, if_neg h]⟩))))
  | busy op =>
    cases op with
    | autoblock => exact .inr (.inr (.inr (.inl ⟨rfl, by simp [sequencerTurn, hf, execAutoblock]⟩)))
    | command w =>
      cases hd : decode s.cfg w with
      | some i => exact .inr (.inl ⟨w, i, rfl, hd, by simp [sequencerTurn, hf, completeCommand, hd]⟩)
      | none =>
        exact .inr (.inr (.inl ⟨w, rfl, hd, by simp [sequencerTurn, hf, completeCommand, hd]⟩))

end Sys2Proof.Machine
end

