-- ==== Sys2Proof/Laws/Bus.lean ====
section
/-! SUPPORT. Where an address leads on the host bus, one lemma per region, and what a host write can
do. -/

namespace Sys2Proof.Machine

/-! ### The address map, region by region -/

/-- The address map with its base addresses written out. -/
theorem locate_eq (cfg : Config) (a : HostAddr) : locate cfg a =
    if a.toNat < 0x100000 then lowLoc a.toNat
    else if a.toNat < 0x200000 then wordLoc (cfg.C * cfg.B) (a.toNat - 0x100000) .raw
    else if a.toNat < 0x300000 then scaledLoc (cfg.C * cfg.B) (a.toNat - 0x200000) (.entry .stream)
    else if a.toNat < 0x400000 then scaledLoc (cfg.C * cfg.T) (a.toNat - 0x300000) (.entry .dl)
    else if a.toNat < 0x500000 then scaledLoc cfg.B (a.toNat - 0x400000) (.entry .out)
    else if a.toNat < 0x600000 then scaledLoc (2 * (cfg.M / 2)) (a.toNat - 0x500000) (.entry .bin)
    else if a.toNat < 0x700000 then scaledLoc cfg.T (a.toNat - 0x600000) (.table .coef)
    else if a.toNat < 0x800000 then scaledLoc cfg.L (a.toNat - 0x700000) (.table .cos)
    else if a.toNat < 0x900000 then scaledLoc cfg.L (a.toNat - 0x800000) (.table .sin)
    else if a.toNat < 0xA00000 then wordLoc cfg.C (a.toNat - 0x900000) .delay
    else .unmapped := rfl

theorem locate_low (cfg : Config) (a : HostAddr) (h : a.toNat < 0x100000) :
    locate cfg a = lowLoc a.toNat := by
  rw [locate_eq, if_pos h]

theorem locate_ctl (cfg : Config) (a : HostAddr) {r : CtlReg} (h : a.toNat < 0x100)
    (hr : ctlRegs[a.toNat / 4]? = some r) : locate cfg a = .reg r := by
  rw [locate_low cfg a (by omega), lowLoc, if_pos h, hr]

theorem locate_v (cfg : Config) (a : HostAddr) (h1 : 0x100 ≤ a.toNat) (h2 : a.toNat < 0x180) :
    locate cfg a = .v (BitVec.ofNat 4 ((a.toNat - 0x100) / 8)) (halfAt a.toNat) := by
  rw [locate_low cfg a (by omega), lowLoc, if_neg (by omega), if_pos h2]

theorem locate_hole (cfg : Config) (a : HostAddr)
    (h : (0x38 ≤ a.toNat ∧ a.toNat < 0x100) ∨ (0x180 ≤ a.toNat ∧ a.toNat < 0x100000) ∨
      0xA00000 ≤ a.toNat) : locate cfg a = .unmapped := by
  rcases h with h | h | h
  · rw [locate_low cfg a (by omega), lowLoc, if_pos h.2]
    have hn : ctlRegs[a.toNat / 4]? = none := by
      rw [List.getElem?_eq_none]
      show 14 ≤ a.toNat / 4
      omega
    rw [hn]
  · rw [locate_low cfg a h.2, lowLoc, if_neg (by omega), if_neg (by omega)]
  · rw [locate_eq]
    split_ifs <;> first | omega | rfl

theorem locate_raw (cfg : Config) (a : HostAddr) (h1 : 0x100000 ≤ a.toNat)
    (h2 : a.toNat < 0x200000) :
    locate cfg a = wordLoc (cfg.C * cfg.B) (a.toNat - 0x100000) .raw := by
  rw [locate_eq]
  split_ifs <;> first | omega | rfl

theorem locate_stream (cfg : Config) (a : HostAddr) (h1 : 0x200000 ≤ a.toNat)
    (h2 : a.toNat < 0x300000) :
    locate cfg a = scaledLoc (cfg.C * cfg.B) (a.toNat - 0x200000) (.entry .stream) := by
  rw [locate_eq]
  split_ifs <;> first | omega | rfl

theorem locate_dl (cfg : Config) (a : HostAddr) (h1 : 0x300000 ≤ a.toNat)
    (h2 : a.toNat < 0x400000) :
    locate cfg a = scaledLoc (cfg.C * cfg.T) (a.toNat - 0x300000) (.entry .dl) := by
  rw [locate_eq]
  split_ifs <;> first | omega | rfl

theorem locate_out (cfg : Config) (a : HostAddr) (h1 : 0x400000 ≤ a.toNat)
    (h2 : a.toNat < 0x500000) :
    locate cfg a = scaledLoc cfg.B (a.toNat - 0x400000) (.entry .out) := by
  rw [locate_eq]
  split_ifs <;> first | omega | rfl

theorem locate_bin (cfg : Config) (a : HostAddr) (h1 : 0x500000 ≤ a.toNat)
    (h2 : a.toNat < 0x600000) :
    locate cfg a = scaledLoc (2 * (cfg.M / 2)) (a.toNat - 0x500000) (.entry .bin) := by
  rw [locate_eq]
  split_ifs <;> first | omega | rfl

theorem locate_coef (cfg : Config) (a : HostAddr) (h1 : 0x600000 ≤ a.toNat)
    (h2 : a.toNat < 0x700000) :
    locate cfg a = scaledLoc cfg.T (a.toNat - 0x600000) (.table .coef) := by
  rw [locate_eq]
  split_ifs <;> first | omega | rfl

theorem locate_cos (cfg : Config) (a : HostAddr) (h1 : 0x700000 ≤ a.toNat)
    (h2 : a.toNat < 0x800000) :
    locate cfg a = scaledLoc cfg.L (a.toNat - 0x700000) (.table .cos) := by
  rw [locate_eq]
  split_ifs <;> first | omega | rfl

theorem locate_sin (cfg : Config) (a : HostAddr) (h1 : 0x800000 ≤ a.toNat)
    (h2 : a.toNat < 0x900000) :
    locate cfg a = scaledLoc cfg.L (a.toNat - 0x800000) (.table .sin) := by
  rw [locate_eq]
  split_ifs <;> first | omega | rfl

theorem locate_delay (cfg : Config) (a : HostAddr) (h1 : 0x900000 ≤ a.toNat)
    (h2 : a.toNat < 0xA00000) :
    locate cfg a = wordLoc cfg.C (a.toNat - 0x900000) .delay := by
  rw [locate_eq]
  split_ifs <;> first | omega | rfl

theorem scaledLoc_cases (n off : Nat) (f : Nat → Half → Loc) :
    (off < 8 * n ∧ scaledLoc n off f = f (off / 8) (halfAt off)) ∨
    (8 * n ≤ off ∧ scaledLoc n off f = .unmapped) := by
  by_cases h : off / 8 < n
  · exact .inl ⟨by omega, by rw [scaledLoc, if_pos h]⟩
  · exact .inr ⟨by omega, by rw [scaledLoc, if_neg h]⟩

theorem wordLoc_cases (n off : Nat) (f : Nat → Loc) :
    (off < 4 * n ∧ wordLoc n off f = f (off / 4)) ∨ (4 * n ≤ off ∧ wordLoc n off f = .unmapped) := by
  by_cases h : off / 4 < n
  · exact .inl ⟨by omega, by rw [wordLoc, if_pos h]⟩
  · exact .inr ⟨by omega, by rw [wordLoc, if_neg h]⟩

/-- What an address reaches: every location with the range of addresses that reach it. -/
theorem locate_cases (cfg : Config) (a : HostAddr) :
    (∃ r, locate cfg a = .reg r ∧ a.toNat < 0x38 ∧ ctlRegs[a.toNat / 4]? = some r) ∨
    (∃ r h, locate cfg a = .v r h ∧ 0x100 ≤ a.toNat ∧ a.toNat < 0x180) ∨
    (∃ e, locate cfg a = .raw e ∧ e < cfg.C * cfg.B ∧ 0x100000 ≤ a.toNat ∧
      a.toNat < 0x100000 + 4 * (cfg.C * cfg.B)) ∨
    (∃ e h, locate cfg a = .entry .stream e h ∧ e < cfg.C * cfg.B ∧ 0x200000 ≤ a.toNat ∧
      a.toNat < 0x200000 + 8 * (cfg.C * cfg.B)) ∨
    (∃ e h, locate cfg a = .entry .dl e h ∧ e < cfg.C * cfg.T ∧ 0x300000 ≤ a.toNat ∧
      a.toNat < 0x300000 + 8 * (cfg.C * cfg.T)) ∨
    (∃ e h, locate cfg a = .entry .out e h ∧ e < cfg.B ∧ 0x400000 ≤ a.toNat ∧
      a.toNat < 0x400000 + 8 * cfg.B) ∨
    (∃ e h, locate cfg a = .entry .bin e h ∧ e < 2 * (cfg.M / 2) ∧ 0x500000 ≤ a.toNat ∧
      a.toNat < 0x500000 + 16 * (cfg.M / 2)) ∨
    (∃ t e h, locate cfg a = .table t e h ∧ 0x600000 ≤ a.toNat ∧ a.toNat < 0x900000) ∨
    (∃ e, locate cfg a = .delay e ∧ 0x900000 ≤ a.toNat ∧ a.toNat < 0x900000 + 4 * cfg.C) ∨
    (locate cfg a = .unmapped ∧ 0x38 ≤ a.toNat) := by
  have hlt := a.isLt
  by_cases h0 : a.toNat < 0x38
  · have hk : a.toNat / 4 < 14 := by omega
    obtain ⟨r, hr⟩ : ∃ r, ctlRegs[a.toNat / 4]? = some r :=
      ⟨ctlRegs[a.toNat / 4]'(by simpa [ctlRegs] using hk), by simp [ctlRegs, hk]⟩
    exact .inl ⟨r, locate_ctl cfg a (by omega) hr, h0, hr⟩
  right
  by_cases h1 : 0x100 ≤ a.toNat ∧ a.toNat < 0x180
  · exact .inl ⟨_, _, locate_v cfg a h1.1 h1.2, h1.1, h1.2⟩
  right
  by_cases h2 : a.toNat < 0x100000 ∨ 0xA00000 ≤ a.toNat
  · rw [locate_hole cfg a (by omega)]
    exact .inr (.inr (.inr (.inr (.inr (.inr (.inr ⟨rfl, by omega⟩))))))
  by_cases h3 : a.toNat < 0x200000
  · rw [locate_raw cfg a (by omega) h3]
    rcases wordLoc_cases (cfg.C * cfg.B) (a.toNat - 0x100000) .raw with ⟨h, e⟩ | ⟨h, e⟩ <;> rw [e]
    · exact .inl ⟨_, rfl, by omega, by omega, by omega⟩
    · exact .inr (.inr (.inr (.inr (.inr (.inr (.inr ⟨rfl, by omega⟩))))))
  right
  by_cases h4 : a.toNat < 0x300000
  · rw [locate_stream cfg a (by omega) h4]
    rcases scaledLoc_cases (cfg.C * cfg.B) (a.toNat - 0x200000) (.entry .stream) with ⟨h, e⟩ | ⟨h, e⟩ <;>
      rw [e]
    · exact .inl ⟨_, _, rfl, by omega, by omega, by omega⟩
    · exact .inr (.inr (.inr (.inr (.inr (.inr ⟨rfl, by omega⟩)))))
  right
  by_cases h5 : a.toNat < 0x400000
  · rw [locate_dl cfg a (by omega) h5]
    rcases scaledLoc_cases (cfg.C * cfg.T) (a.toNat - 0x300000) (.entry .dl) with ⟨h, e⟩ | ⟨h, e⟩ <;>
      rw [e]
    · exact .inl ⟨_, _, rfl, by omega, by omega, by omega⟩
    · exact .inr (.inr (.inr (.inr (.inr ⟨rfl, by omega⟩))))
  right
  by_cases h6 : a.toNat < 0x500000
  · rw [locate_out cfg a (by omega) h6]
    rcases scaledLoc_cases cfg.B (a.toNat - 0x400000) (.entry .out) with ⟨h, e⟩ | ⟨h, e⟩ <;> rw [e]
    · exact .inl ⟨_, _, rfl, by omega, by omega, by omega⟩
    · exact .inr (.inr (.inr (.inr ⟨rfl, by omega⟩)))
  right
  by_cases h7 : a.toNat < 0x600000
  · rw [locate_bin cfg a (by omega) h7]
    rcases scaledLoc_cases (2 * (cfg.M / 2)) (a.toNat - 0x500000) (.entry .bin) with ⟨h, e⟩ | ⟨h, e⟩ <;>
      rw [e]
    · exact .inl ⟨_, _, rfl, by omega, by omega, by omega⟩
    · exact .inr (.inr (.inr ⟨rfl, by omega⟩))
  right
  by_cases h8 : a.toNat < 0x700000
  · rw [locate_coef cfg a (by omega) h8]
    rcases scaledLoc_cases cfg.T (a.toNat - 0x600000) (.table .coef) with ⟨h, e⟩ | ⟨h, e⟩ <;> rw [e]
    · exact .inl ⟨_, _, _, rfl, by omega, by omega⟩
    · exact .inr (.inr ⟨rfl, by omega⟩)
  by_cases h9 : a.toNat < 0x800000
  · rw [locate_cos cfg a (by omega) h9]
    rcases scaledLoc_cases cfg.L (a.toNat - 0x700000) (.table .cos) with ⟨h, e⟩ | ⟨h, e⟩ <;> rw [e]
    · exact .inl ⟨_, _, _, rfl, by omega, by omega⟩
    · exact .inr (.inr ⟨rfl, by omega⟩)
  by_cases h10 : a.toNat < 0x900000
  · rw [locate_sin cfg a (by omega) h10]
    rcases scaledLoc_cases cfg.L (a.toNat - 0x800000) (.table .sin) with ⟨h, e⟩ | ⟨h, e⟩ <;> rw [e]
    · exact .inl ⟨_, _, _, rfl, by omega, by omega⟩
    · exact .inr (.inr ⟨rfl, by omega⟩)
  right
  rw [locate_delay cfg a (by omega) (by omega)]
  rcases wordLoc_cases cfg.C (a.toNat - 0x900000) .delay with ⟨h, e⟩ | ⟨h, e⟩ <;> rw [e]
  · exact .inl ⟨_, rfl, by omega, by omega⟩
  · exact .inr ⟨rfl, by omega⟩

/-- What a host write can do. -/
theorem hostWrite_cases (s : State) (a : HostAddr) (w : Word) :
    (a.toNat / 4 = 1 ∧ hostWrite s a w = writeCtrl s w) ∨
    (a.toNat / 4 = 2 ∧ hostWrite s a w = writeStatus s w) ∨
    (a.toNat / 4 = 3 ∧ hostWrite s a w = writeCmd s w) ∨
    hostWrite s a w = s.setFlags Flag.addr.mask ∨
    (s.fsm ≠ .idle ∧ hostWrite s a w = s.setFlags Flag.hzd.mask) ∨
    (s.fsm = .idle ∧ ∃ r x, hostWrite s a w = writeV s r x) ∨
    (s.fsm = .idle ∧ ∃ e, e < s.cfg.C * s.cfg.B ∧
      hostWrite s a w = writeRaw s (rawBase + 4 * e) w) ∨
    (s.fsm = .idle ∧ ∃ m e h, m ≠ .dl ∧ locate s.cfg a = .entry m e h ∧
      hostWrite s a w = writeHalf s (m.addr e) w h) := by
  rcases locate_cases s.cfg a with ⟨r, h, hlt, hr⟩ | ⟨r, q, h, _⟩ | ⟨e, h, he, _⟩ | ⟨e, q, h, _⟩ |
    ⟨_, _, h, _⟩ | ⟨e, q, h, _⟩ | ⟨e, q, h, _⟩ | ⟨_, _, _, h, _⟩ | ⟨_, h, _⟩ | ⟨h, _⟩ <;>
    simp only [hostWrite, h, writeLoc]
  · have hk : a.toNat / 4 < 14 := by omega
    generalize a.toNat / 4 = k at hk hr
    interval_cases k <;> simp only [ctlRegs, List.getElem?_cons_zero, List.getElem?_cons_succ,
      Option.some.injEq] at hr <;> subst hr <;> simp
  · rcases whenIdle_cases s (writeV s r (withHalf (readV s r) w q)) with ⟨hb, e⟩ | ⟨hb, e⟩ <;> rw [e]
    · exact .inr (.inr (.inr (.inr (.inl ⟨hb, rfl⟩))))
    · exact .inr (.inr (.inr (.inr (.inr (.inl ⟨hb, _, _, rfl⟩)))))
  · rcases whenIdle_cases s (writeRaw s (rawBase + 4 * e) w) with ⟨hb, e'⟩ | ⟨hb, e'⟩ <;> rw [e']
    · exact .inr (.inr (.inr (.inr (.inl ⟨hb, rfl⟩))))
    · exact .inr (.inr (.inr (.inr (.inr (.inr (.inl ⟨hb, e, he, rfl⟩))))))
  · rcases whenIdle_cases s (writeHalf s (ScaledMem.stream.addr e) w q) with ⟨hb, e'⟩ | ⟨hb, e'⟩ <;>
      rw [e']
    · exact .inr (.inr (.inr (.inr (.inl ⟨hb, rfl⟩))))
    · exact .inr (.inr (.inr (.inr (.inr (.inr (.inr ⟨hb, .stream, e, q, by simp, rfl, rfl⟩))))))
  · exact .inr (.inr (.inr (.inl trivial)))
  · rcases whenIdle_cases s (writeHalf s (ScaledMem.out.addr e) w q) with ⟨hb, e'⟩ | ⟨hb, e'⟩ <;>
      rw [e']
    · exact .inr (.inr (.inr (.inr (.inl ⟨hb, rfl⟩))))
    · exact .inr (.inr (.inr (.inr (.inr (.inr (.inr ⟨hb, .out, e, q, by simp, rfl, rfl⟩))))))
  · rcases whenIdle_cases s (writeHalf s (ScaledMem.bin.addr e) w q) with ⟨hb, e'⟩ | ⟨hb, e'⟩ <;>
      rw [e']
    · exact .inr (.inr (.inr (.inr (.inl ⟨hb, rfl⟩))))
    · exact .inr (.inr (.inr (.inr (.inr (.inr (.inr ⟨hb, .bin, e, q, by simp, rfl, rfl⟩))))))
  all_goals exact .inr (.inr (.inr (.inl trivial)))

/-- In IDLE no location is in a write set, so a read returns the location's value. -/
theorem readData_idle {s : State} (a : HostAddr) (h : s.fsm = .idle) :
    readData s a = readLoc s (locate s.cfg a) := by
  simp only [readData, inWriteSet, h]; rfl

/-- STATUS, bit by bit. -/
theorem statusWord_bit (s : State) (i : Nat) : (statusWord s).getLsbD i =
    if i < 1 then isBusy s else if i < 4 then (phase s).getLsbD (i - 1)
    else if i < 5 then s.pending else if i < 6 then blkReq s else if i < 7 then false
    else if i < 24 then s.flags.getLsbD (i - 7) else false := by
  simp only [statusWord, BitVec.getLsbD_append]
  rcases Nat.lt_or_ge i 7 with h | h
  · interval_cases i <;> simp
  · have e : i - 1 - 3 - 1 - 1 - 1 = i - 7 := by omega
    rw [e]
    split_ifs <;> first | omega | rfl | simp

/-- CTRL, bit by bit. -/
theorem ctrlWord_bit (s : State) (i : Nat) : (ctrlWord s).getLsbD i =
    if i < 1 then s.auto else if i < 2 then s.ie else if i < 3 then s.iee else false := by
  simp only [ctrlWord, BitVec.getLsbD_append]
  rcases Nat.lt_or_ge i 3 with h | h
  · interval_cases i <;> simp
  · split_ifs <;> first | omega | simp

theorem isV_cases {rd : Reg} {l : Loc} (h : isV rd l = true) : ∃ q, l = .v rd q := by
  simp only [isV, Bool.or_eq_true, decide_eq_true_eq] at h
  exact h.elim (fun e => ⟨_, e⟩) fun e => ⟨_, e⟩

theorem isMem_cases {m : ScaledMem} {l : Loc} (h : isMem m l = true) : ∃ e q, l = .entry m e q := by
  unfold isMem at h
  split at h
  · simp only [decide_eq_true_eq] at h
    exact ⟨_, _, by rw [h]⟩
  · cases h

/-- The locations some write set holds: V registers, memory entries, CURSOR and BLKCNT. -/
def Writable (l : Loc) : Prop :=
  (∃ r q, l = .v r q) ∨ (∃ m e q, l = .entry m e q) ∨ l = .reg .cursor ∨ l = .reg .blkcnt

theorem Writable.ofV {rd : Reg} {l : Loc} (h : isV rd l = true) : Writable l :=
  let ⟨q, e⟩ := isV_cases h
  .inl ⟨rd, q, e⟩

theorem Writable.ofMem {m : ScaledMem} {l : Loc} (h : isMem m l = true) : Writable l :=
  let ⟨e, q, eq⟩ := isMem_cases h
  .inr (.inl ⟨m, e, q, eq⟩)

theorem writable_block {cfg : Config} {l : Loc} (h : blockWrites cfg l = true) : Writable l := by
  cases l with
  | entry m e q => exact .inr (.inl ⟨m, e, q, rfl⟩)
  | reg r => cases r <;> simp_all [blockWrites, Writable]
  | _ => simp [blockWrites] at h

theorem writable_instr {s : State} {l : Loc} {i : Instr} (h : instrWrites s l i = true) :
    Writable l := by
  cases i <;> simp only [instrWrites, Bool.or_eq_true, decide_eq_true_eq, Bool.false_eq_true] at h
  case vadd | vmul | vmac | vfromi | vtoi => exact .ofV h
  case firs =>
    obtain h | ⟨q, rfl⟩ : isV _ l = true ∨ ∃ q, l = .entry .dl _ q := by
      rcases h with (h | h) | h
      exacts [.inl h, .inr ⟨.mant, h⟩, .inr ⟨.scale, h⟩]
    · exact .ofV h
    · exact .inr (.inl ⟨.dl, _, q, rfl⟩)
  case firadv => exact .inr (.inr (.inl h))
  case firb =>
    rcases h with (h | h) | h
    · exact .ofMem h
    · exact .ofMem h
    · exact .inr (.inr (.inl h))
  case dft | beam | conv => exact .ofMem h
  case block => exact writable_block h

/-- Whatever runs, its write set holds only writable locations. -/
theorem inWriteSet_writable {s : State} {l : Loc} (h : inWriteSet s l = true) : Writable l := by
  unfold inWriteSet at h
  split at h
  · cases h
  · exact .ofMem h
  · exact writable_block h
  · split at h
    · exact writable_instr h
    · cases h

/-- A read of a location no write set can hold returns the location's value, busy or not. -/
theorem readData_fixed {s : State} {a : HostAddr} (h : ¬ Writable (locate s.cfg a)) :
    readData s a = readLoc s (locate s.cfg a) := by
  rw [readData, if_neg fun hw => h (inWriteSet_writable hw)]

end Sys2Proof.Machine
end

