-- ==== Sys2Proof/Laws/PerInstr.lean ====
section
/-! SUPPORT. What holds of every command as syntax, one lemma per constructor. -/

namespace Sys2Proof.Laws

/-- The opcode field of a command's word is the opcode of R97. -/
def OpcodeField.Statement (i : Instr) : Prop := opcOf (encode i) = i.opcode

theorem OpcodeField.nop : OpcodeField.Statement .nop := rfl

theorem OpcodeField.vadd (rd ra rb : Reg) : OpcodeField.Statement (.vadd rd ra rb) := by
  apply BitVec.eq_of_getLsbD_eq
  intro i hi
  simp only [opcOf, encode, Instr.opcode, BitVec.getLsbD_extractLsb', BitVec.getLsbD_append]
  interval_cases i <;> simp

theorem OpcodeField.vmul (rd ra rb : Reg) : OpcodeField.Statement (.vmul rd ra rb) := by
  apply BitVec.eq_of_getLsbD_eq
  intro i hi
  simp only [opcOf, encode, Instr.opcode, BitVec.getLsbD_extractLsb', BitVec.getLsbD_append]
  interval_cases i <;> simp

theorem OpcodeField.vmac (rd ra rb : Reg) : OpcodeField.Statement (.vmac rd ra rb) := by
  apply BitVec.eq_of_getLsbD_eq
  intro i hi
  simp only [opcOf, encode, Instr.opcode, BitVec.getLsbD_extractLsb', BitVec.getLsbD_append]
  interval_cases i <;> simp

theorem OpcodeField.vfromi (rd ra : Reg) (d : BitVec 7) :
    OpcodeField.Statement (.vfromi rd ra d) := by
  apply BitVec.eq_of_getLsbD_eq
  intro i hi
  simp only [opcOf, encode, Instr.opcode, BitVec.getLsbD_extractLsb', BitVec.getLsbD_append]
  interval_cases i <;> simp

theorem OpcodeField.vtoi (rd ra : Reg) : OpcodeField.Statement (.vtoi rd ra) := by
  apply BitVec.eq_of_getLsbD_eq
  intro i hi
  simp only [opcOf, encode, Instr.opcode, BitVec.getLsbD_extractLsb', BitVec.getLsbD_append]
  interval_cases i <;> simp

theorem OpcodeField.firs (rd ra : Reg) (ch : BitVec 16) :
    OpcodeField.Statement (.firs rd ra ch) := by
  apply BitVec.eq_of_getLsbD_eq
  intro i hi
  simp only [opcOf, encode, Instr.opcode, BitVec.getLsbD_extractLsb', BitVec.getLsbD_append]
  interval_cases i <;> simp

theorem OpcodeField.firadv : OpcodeField.Statement .firadv := rfl

theorem OpcodeField.firb : OpcodeField.Statement .firb := rfl

theorem OpcodeField.dft : OpcodeField.Statement .dft := rfl

theorem OpcodeField.beam : OpcodeField.Statement .beam := rfl

theorem OpcodeField.conv : OpcodeField.Statement .conv := rfl

theorem OpcodeField.deliver : OpcodeField.Statement .deliver := rfl

theorem OpcodeField.block : OpcodeField.Statement .block := rfl

end Sys2Proof.Laws
end

