-- ==== Sys2Proof/Tests/Slice0.lean ====
section
/-! SUPPORT. Tests: ill-formed commands, decoding of words written out from R92 and R97, one step of
each command on a small state, and a state that meets the hypotheses of each statement. Expected
results are those of spec/95_test_vectors.md (vector or program named) or of a rule's own example. -/

namespace Sys2Proof.Tests

open Sys2Proof Sys2Proof.Machine

/-! ### Helpers -/

/-- A core of configuration `cfg` in IDLE after reset. -/
def idle (cfg : Config) : State := { State.resetWith cfg with fsm := .idle }

/-- A core of configuration EX1 that runs the command of a word. -/
def running (w : Word) : State := { State.reset with fsm := .busy (.command w), cmd := w }

/-- EX1 in IDLE with V1 and V2 set. -/
def withV (a b : Scaled) : State := writeV (writeV (idle Config.ex1) 1 a) 2 b

/-- Writes scaled values at an address and on, 8 bytes apart. -/
def fill : State → Nat → List (Int × Int) → State
  | s, _, [] => s
  | s, a, x :: xs => fill (writeScaled s a (.ofInts x.1 x.2)) (a + 8) xs

/-- Writes RAW codes at an address and on. -/
def fillRaw : State → Nat → List Nat → State
  | s, _, [] => s
  | s, a, x :: xs => fillRaw (writeRaw s a (BitVec.ofNat 32 x)) (a + 4) xs

/-- The scaled values at an address and on. -/
def values (s : State) (a n : Nat) : List (Int × Int) :=
  (List.range n).map fun i => ((readScaled s (a + 8 * i)).m.toInt, (readScaled s (a + 8 * i)).s.toInt)

/-- The state a command gives, if it gives one. -/
def after (i : Instr) (s : State) : Option State :=
  match exec i s with
  | .next t => some t
  | .fault _ => none
  | .refused _ => none

/-- A V register and STATUS flags after a command. -/
def resultOf (i : Instr) (s : State) (r : Reg) : Option (Scaled × Flags) :=
  (after i s).map fun t => (readV t r, t.flags)

/-- A set of flags, DONE among them. -/
def flagSet (fs : List Flag) : Flags := fs.foldl (fun acc f => acc ||| f.mask) Flag.done.mask

/-! ### WellFormed refuses ill-formed commands (R97 value checks) -/

theorem test_wellFormed_refuses_firs_channel : (Instr.firs 1 0 2).wellFormed Config.ex1 = false := by
  decide
theorem test_wellFormed_accepts_firs_last_channel :
    (Instr.firs 1 0 1).wellFormed Config.ex1 = true := by decide
theorem test_wellFormed_refuses_dft_short_block :
    Instr.dft.wellFormed { Config.ex1 with B := 3 } = false := by decide
theorem test_wellFormed_accepts_dft_equal_sizes : Instr.dft.wellFormed Config.ex1 = true := by decide

/-! ### Decoding: OPC, RD, RA, RB, D, CH written out field by field (R91, R92, R97) -/

theorem test_decode_nop : decode Config.ex1 0x00000000 = some .nop := by decide
theorem test_decode_vadd :
    decode Config.ex1 0b00000001_0011_0001_0010_000000000000 = some (.vadd 3 1 2) := by decide
theorem test_decode_vmul :
    decode Config.ex1 0b00000010_0100_0011_1111_000000000000 = some (.vmul 4 3 15) := by decide
theorem test_decode_vmac :
    decode Config.ex1 0b00000011_0001_0010_0011_000000000000 = some (.vmac 1 2 3) := by decide
theorem test_decode_vfromi :
    decode Config.ex1 0b00000100_0110_0101_000000000_1000011 = some (.vfromi 6 5 67) := by decide
theorem test_decode_vtoi :
    decode Config.ex1 0b00000101_0101_0100_0000000000000000 = some (.vtoi 5 4) := by decide
theorem test_decode_firs :
    decode Config.ex1 0b00010000_0010_0001_0000000000000001 = some (.firs 2 1 1) := by decide
theorem test_decode_firadv : decode Config.ex1 0x11000000 = some .firadv := by decide
theorem test_decode_firb : decode Config.ex1 0x12000000 = some .firb := by decide
theorem test_decode_dft : decode Config.ex1 0x20000000 = some .dft := by decide
theorem test_decode_beam : decode Config.ex1 0x30000000 = some .beam := by decide
theorem test_decode_conv : decode Config.ex1 0x40000000 = some .conv := by decide
theorem test_decode_deliver : decode Config.ex1 0x41000000 = some .deliver := by decide
theorem test_decode_block : decode Config.ex1 0x42000000 = some .block := by decide

/-- R98: an unlisted opcode, and one reserved bit set in each format. -/
theorem test_decode_illegal :
    [0xFF000000#32, 0x06000000#32, 0x00000001#32, 0x01312001#32, 0x04650083#32, 0x05540001#32,
      0x11100000#32, 0x42000001#32].all (fun w => decide (decode Config.ex1 w = none)) = true := by
  decide

/-- A row of the table, as the host asks for it. -/
theorem test_decodeTableWord : decodeTableWord 32 0x01312000 = some (.vadd 3 1 2) := by decide

/-! ### Arithmetic commands -/

/-- P1 step 3. -/
theorem test_vadd_aligns : resultOf (.vadd 3 1 2) (withV (.ofInts 100 (-2)) (.ofInts 5 0)) 3 =
    some (.ofInts 600 (-2), flagSet []) := by decide +kernel
/-- V-ADD-05. -/
theorem test_vadd_skips : resultOf (.vadd 1 1 2) (withV (.ofInts 9 (-11)) (.ofInts 7 0)) 1 =
    some (.ofInts 7 0, flagSet [.addSkip]) := by decide +kernel
/-- V-MUL-06. -/
theorem test_vmul_wraps :
    resultOf (.vmul 2 1 1) (withV (.ofInts (-2147483648) 0) (.ofInts 0 0)) 2 =
    some (.ofInts (-755914245) 3, flagSet [.mulRescale, .mulWrap]) := by decide +kernel
/-- V-MUL-10. -/
theorem test_vmul_scale_wraps : resultOf (.vmul 0 1 2) (withV (.ofInts 2 100) (.ofInts 3 100)) 0 =
    some (.ofInts 6 (-56), flagSet [.scaleWrap]) := by decide +kernel
/-- V-MAC-02: all three fields name one register. -/
theorem test_vmac_same_register :
    resultOf (.vmac 1 1 1) (withV (.ofInts 10 (-2)) (.ofInts 0 0)) 1 =
    some (.ofInts 1100 (-4), flagSet []) := by decide +kernel
/-- V-MAC-03. -/
theorem test_vmac_flags : resultOf (.vmac 0 1 2) (withV (.ofInts 46341 0) (.ofInts 46341 0)) 0 =
    some (.ofInts (-2147479296) 0, flagSet [.mulRescale, .alignWrap]) := by decide +kernel
/-- V-FROMI-10; the scale of the source is ignored (R119). -/
theorem test_vfromi_wraps : resultOf (.vfromi 6 1 7) (withV (.ofInts (-2048) 5) (.ofInts 0 0)) 6 =
    some (.ofInts 994836480 (-7), flagSet [.convWrap]) := by decide +kernel
/-- P1 step 6. -/
theorem test_vfromi_exact : resultOf (.vfromi 6 1 3) (withV (.ofInts 36 0) (.ofInts 0 0)) 6 =
    some (.ofInts 36000 (-3), flagSet []) := by decide +kernel
/-- V-TOI-02. -/
theorem test_vtoi_truncates : resultOf (.vtoi 5 1) (withV (.ofInts (-650) (-2)) (.ofInts 0 0)) 5 =
    some (.ofInts (-6) 0, flagSet [.tointLoss]) := by decide +kernel
/-- V-TOI-09. -/
theorem test_vtoi_wraps : resultOf (.vtoi 5 1) (withV (.ofInts 1 127) (.ofInts 0 0)) 5 =
    some (.ofInts 0 0, flagSet [.tointWrap]) := by decide +kernel
/-- V-PIPE-04. -/
theorem test_nop : after .nop (running 0) =
    some { idle Config.ex1 with flags := flagSet [] } := by decide +kernel

/-! ### FIR -/

/-- The start of V-FIR-04: cursor 2 and `DL[0]` as given. -/
def firStart : State := { fill (idle Config.ex1) (dlAddr Config.ex1 0 0) [(1, 0), (2, 0), (0, 0)] with cursor := 2 }

/-- V-FIR-04. -/
theorem test_firs_reads_taps_backwards :
    (after (.firs 2 1 0) (writeV firStart 1 (.ofInts 4 0))).map
      (fun t => (readV t 2, values t (dlAddr Config.ex1 0 0) 3, t.cursor)) =
    some (.ofInts 28 (-1), [(1, 0), (2, 0), (4, 0)], 2) := by decide +kernel
/-- V-FIR-09. -/
theorem test_firs_illegal_channel : after (.firs 1 0 2) (idle Config.ex1) =
    some { idle Config.ex1 with flags := flagSet [.ill] } := by decide +kernel
/-- V-FIR-07. -/
theorem test_firadv_wraps : (after .firadv firStart).map (·.cursor) = some 0 := by decide +kernel
/-- P3: STREAM before and after FIRB, and the delay lines. -/
theorem test_firb_filters_both_channels :
    (after .firb (fill (idle Config.ex1) (streamAddr Config.ex1 0 0)
      [(10000, -2), (0, -2), (0, -2), (0, -2), (1000, -2), (2000, -2), (-1000, -2), (0, -2)])).map
      (fun t => (values t (streamAddr Config.ex1 0 0) 8, values t (dlAddr Config.ex1 0 0) 6, t.cursor)) =
    some ([(50000, -3), (30000, -3), (20000, -3), (0, -3), (5000, -3), (13000, -3), (3000, -3),
      (1000, -3)], [(0, -2), (0, -2), (0, -2), (0, -2), (2000, -2), (-1000, -2)], 1) := by
  decide +kernel

/-! ### DFT, beamformer, conversion, delivery, block -/

/-- V-DFT-03: the sign of the imaginary part. -/
theorem test_dft_sign : (after .dft (fill (idle Config.ex1) (outAddr 0)
      [(0, -1), (30, -1), (0, -1), (-30, -1)])).map (fun t => values t (binReAddr 0) 4) =
    some [(0, -1), (0, -1), (0, -1), (60, -1)] := by decide +kernel
/-- V-DFT-11. -/
theorem test_dft_short_block : after .dft (idle { Config.ex1 with B := 2 }) =
    some { idle { Config.ex1 with B := 2 } with flags := flagSet [.ill] } := by decide +kernel
/-- V-BEAM-02. -/
theorem test_beam : (after .beam (fill (idle Config.ex1) (streamAddr Config.ex1 0 0)
      [(7, 0), (-7, 0), (5, -1), (0, -12), (1, 0), (2, 0), (3, 0), (4, 0)])).map
      (fun t => (values t (outAddr 0) 4, t.flags)) =
    some ([(3, 0), (-3, 0), (12, -1), (1, 0)], flagSet [.addSkip, .bfOmit, .bfDivloss]) := by
  decide +kernel
/-- P3 step 1 and V-CONV-03, V-CONV-04: RAW keeps 12 bits (V-CONV-09). -/
theorem test_conv : (after .conv (fillRaw (idle Config.ex1) (rawAddr Config.ex1 0 0)
      [2148, 2048, 0, 4095, 0x1801, 2068, 2038, 2048])).map
      (fun t => values t (streamAddr Config.ex1 0 0) 8) =
    some [(10000, -2), (0, -2), (-204800, -2), (204700, -2), (100, -2), (2000, -2), (-1000, -2),
      (0, -2)] := by decide +kernel
/-- V-PIPE-03: two words on EX1, the last one marked. -/
theorem test_deliver_marks_the_last : (after .deliver (idle Config.ex1)).map
    (fun t => t.trace.map Emitted.last) = some [false, true] := by decide +kernel
/-- The core of V-PIPE-02, with `B < M`. -/
def shortBlock : Config where
  C := 1
  B := 2
  T := 1
  M := 4
  L := 1
  dec := 0
  rawBits := 12
  dcOffset := 0
  delay := [0]
  coef := [.ofInts 1 0]
  cos := [.ofInts 1 0]
  sin := [.ofInts 0 0]

/-- V-PIPE-02. -/
theorem test_block_short : (after .block (fillRaw (idle shortBlock) (rawAddr shortBlock 0 0) [5, 7])).map
      (fun t => (values t (streamAddr shortBlock 0 0) 2, values t (outAddr 0) 2, t.trace, t.blkcnt,
        t.cursor)) =
    some ([(5, 0), (7, 0)], [(5, 0), (7, 0)], [], 1, 0) := by decide +kernel
/-- P3. -/
theorem test_block_p3 : (after .block (fillRaw (idle Config.ex1) (rawAddr Config.ex1 0 0)
      [2148, 2048, 2048, 2048, 2058, 2068, 2038, 2048])).map
      (fun t => (values t (outAddr 0) 4, values t (binReAddr 0) 4, statusWord t, t.cursor)) =
    some ([(25000, -3), (17500, -3), (16500, -3), (1500, -3)],
      [(60500, -3), (0, -3), (8500, -3), (16000, -3)], 0x00020080, 1) := by decide +kernel

/-! ### Host, producer, reset, one step each -/

/-- V-CTL-01, V-CTL-03, V-CTL-05, V-CTL-06, V-CTL-07, V-CTL-12. -/
theorem test_anomalies :
    hostWrite (idle Config.ex1) 0x00000C 0xFF000000 =
      { idle Config.ex1 with cmd := 0xFF000000, flags := flagSet [.ill] } ∧
    hostWrite (running 0) 0x00000C 1 = { running 0 with flags := Flag.cmdovr.mask } ∧
    hostWrite (running 0) 0x000108 1 = { running 0 with flags := Flag.hzd.mask } ∧
    hostWrite (idle Config.ex1) 0x000000 1 = { idle Config.ex1 with flags := Flag.addr.mask } ∧
    hostWrite (idle Config.ex1) 0x300000 1 = { idle Config.ex1 with flags := Flag.addr.mask } ∧
    producerDone (idle Config.ex1) = { idle Config.ex1 with flags := Flag.overrun.mask } := by
  decide +kernel
/-- V-CTL-14. -/
theorem test_scale_write : readData (hostWrite (idle Config.ex1) 0x00010C 0x000001FE) 0x00010C =
    0xFFFFFFFE := by decide +kernel
/-- V-CTL-09. -/
theorem test_status_clear :
    (hostWrite { idle Config.ex1 with flags := flagSet [.addr] } 0x000008 0x00000080).flags =
    Flag.addr.mask := by decide +kernel
/-- V-CTL-15: a soft reset abandons the running operation. -/
theorem test_soft_reset : ((hostWrite (running 0x42000000) 0x000004 0x80000000).fsm,
    statusWord (hostWrite (running 0x42000000) 0x000004 0x80000000)) = (.init, 0x0000000F) := by
  decide +kernel
/-- R234: the first step after reset. -/
theorem test_first_step : step State.reset = .next (idle Config.ex1) := by rfl
/-- The word `withFetchWord` places is the next one to run. -/
theorem test_withFetchWord : step (State.reset.withFetchWord 32 0x00000000) =
    .next { idle Config.ex1 with flags := flagSet [] } := by rfl

/-! ### Witnesses: the hypotheses of each statement hold together somewhere -/

/-- DecodeInvertsEncode, EncodeInvertsDecode: FIRS at the last channel, VFROMI at `d = 127`. -/
theorem witness_encoding : (Instr.firs 15 0 1).wellFormed Config.ex1 = true ∧
    decode Config.ex1 0x10F00001 = some (.firs 15 0 1) ∧
    decode Config.ex1 0x040F007F = some (.vfromi 0 15 127) := by decide
/-- FromIntegerFollowsItsRule at `d = 0` and `d = 127`; IntegerRoundTripIsExact at its edge. -/
theorem witness_fromInteger : 0 ≤ 127 ∧ 127 ≤ 127 ∧ (1 : Nat) ≤ 127 ∧
    (-2 : Int) ^ 31 ≤ (214748364#32).toInt * 10 ^ 1 ∧
    (214748364#32).toInt * 10 ^ 1 ≤ 2 ^ 31 - 1 := by decide
/-- ToIntegerFollowsItsRule: scales 0, 127, -1, -10 and -128. -/
theorem witness_toInteger : (Scaled.ofInts 1 0).s.toInt = (0 : Nat) ∧
    (Scaled.ofInts 1 127).s.toInt = (127 : Nat) ∧ (Scaled.ofInts 1 (-1)).s.toInt = -((1 : Nat) : Int) ∧
    (Scaled.ofInts 1 (-10)).s.toInt = -((10 : Nat) : Int) ∧
    (Scaled.ofInts 1 (-128)).s.toInt = -((128 : Nat) : Int) := by decide
/-- AddFollowsItsThreeCases: differences 0, 1, 10, 11 and 255. -/
theorem witness_add : (Scaled.ofInts 1 3).s = (Scaled.ofInts 2 3).s ∧
    (Scaled.ofInts 1 1).s.toInt - (Scaled.ofInts 1 0).s.toInt = (1 : Nat) ∧
    (Scaled.ofInts 1 0).s.toInt - (Scaled.ofInts 1 (-10)).s.toInt = (10 : Nat) ∧
    10 < (Scaled.ofInts 1 0).s.toInt - (Scaled.ofInts 1 (-11)).s.toInt ∧
    10 < (Scaled.ofInts 1 127).s.toInt - (Scaled.ofInts 1 (-128)).s.toInt := by decide
/-- AddIsExactWhenItRaisesNoFlag (V-ADD-02). -/
theorem witness_add_exact : (add (.ofInts 100 (-2)) (.ofInts 5 0)).2 = 0#17 := by decide +kernel
/-- MultiplyFollowsItsRule: a product of exactly `-2^31` fits, `2^31` does not (V-MUL-04, V-MUL-05). -/
theorem witness_multiply :
    (-2 : Int) ^ 31 ≤ (Scaled.ofInts (-2147483648) 0).m.toInt * (Scaled.ofInts 1 0).m.toInt ∧
    (Scaled.ofInts (-2147483648) 0).m.toInt * (Scaled.ofInts 1 0).m.toInt ≤ 2 ^ 31 - 1 ∧
    ¬(Scaled.ofInts (-2147483648) 0).m.toInt * (Scaled.ofInts (-1) 0).m.toInt ≤ 2 ^ 31 - 1 := by decide
/-- MultiplyCommutesAndIsExactWhenItRaisesNoFlag (V-MUL-01). -/
theorem witness_multiply_exact : (multiply (.ofInts 3 (-1)) (.ofInts 4 (-2))).2 = 0#17 := by
  decide +kernel
/-- FirsFiltersOneSample at the last channel; IllegalByValueIsRejected just past it and at `B = M - 1`. -/
theorem witness_firs_dft : (1#16).toNat < (idle Config.ex1).cfg.C ∧
    (idle Config.ex1).cfg.C ≤ (2#16).toNat ∧
    (idle { Config.ex1 with B := 3 }).cfg.B < (idle { Config.ex1 with B := 3 }).cfg.M := by decide
/-- Every statement that asks for a legal configuration (FIRADV, CONV, the bus): EX1, and `B < M`. -/
theorem witness_legal : Config.ex1.Legal ∧ shortBlock.Legal := by decide
/-- FirbConvolvesEveryChannel, FirbWritesOnlyItsWriteSet, BlockCompletesWithinItsWriteSet: the cursor
at both ends, with `M ≤ B` and `B < M`. -/
theorem witness_firb_block : firStart.cfg.Legal ∧ firStart.cursor.toNat < firStart.cfg.T ∧
    (idle shortBlock).cfg.Legal ∧ (idle shortBlock).cursor.toNat < (idle shortBlock).cfg.T ∧
    firStart.cfg.M ≤ firStart.cfg.B ∧ shortBlock.B < shortBlock.M := by decide
/-- OnlyFilteringAndResetTouchFilterState: a FIRADV step that moves the cursor, and a FIRS step that
changes the first byte of DL. -/
theorem witness_filter_state : (running 0x11000000).cfg.Legal ∧
    (∃ t, step (running 0x11000000) = .next t ∧ t.cursor ≠ (running 0x11000000).cursor) ∧
    (writeV (running 0x10210000) 1 (.ofInts 1 0)).cfg.Legal ∧
    (∃ t, step (writeV (running 0x10210000) 1 (.ofInts 1 0)) = .next t ∧
      readByte t 0x300000 ≠ readByte (writeV (running 0x10210000) 1 (.ofInts 1 0)) 0x300000) :=
  ⟨by decide, ⟨_, rfl, by decide +kernel⟩, by decide, ⟨_, rfl, by decide +kernel⟩⟩
/-- DftWritesEveryBin, BeamAveragesTheDelayedChannels. -/
theorem witness_dft_beam : (idle Config.ex1).cfg.M ≤ (idle Config.ex1).cfg.B ∧
    1 ≤ (idle Config.ex1).cfg.C := by decide
/-- A constant block, scale at an end of the range. -/
def constantBlock (sc : Int) : State :=
  fill (idle Config.ex1) (outAddr 0) [(5, sc), (5, sc), (5, sc), (5, sc)]

/-- DftOfAConstantBlockHasItsSumInBinZero at scales 0 and -10 (R163). -/
theorem witness_dc_bin : ∀ sc ∈ [(0 : Int), -10],
    (constantBlock sc).cfg.M ≤ (constantBlock sc).cfg.B ∧ 2 ≤ (constantBlock sc).cfg.M ∧
    (∀ n, n < (constantBlock sc).cfg.M → readScaled (constantBlock sc) (outAddr n) = .ofInts 5 sc) ∧
    cosAt (constantBlock sc).cfg 0 = .ofInts 1 0 ∧ sinAt (constantBlock sc).cfg 0 = .ofInts 0 0 ∧
    -10 ≤ (Scaled.ofInts 5 sc).s.toInt ∧ (Scaled.ofInts 5 sc).s.toInt ≤ 0 ∧
    -2 ^ 31 ≤ ((constantBlock sc).cfg.M : Int) * (Scaled.ofInts 5 sc).m.toInt ∧
    ((constantBlock sc).cfg.M : Int) * (Scaled.ofInts 5 sc).m.toInt ≤ 2 ^ 31 - 1 := by decide +kernel
/-- Two channels without delay, the first one active. -/
def oneActive : State :=
  fill (idle { Config.ex1 with delay := [0, 0] }) (streamAddr Config.ex1 0 0)
    [(7, -10), (7, 0), (0, 0), (0, 0), (0, -10), (0, 0), (0, 0), (0, 0)]

/-- BeamWithZeroDelaysKeepsASingleChannel at scales -10 and 0 (R173). -/
theorem witness_zero_delay : ∀ i ∈ [0, 1], i < oneActive.cfg.B ∧ 0 < oneActive.cfg.C ∧
    (∀ ch, ch < oneActive.cfg.C → delayAt oneActive.cfg ch = 0) ∧
    (∀ ch, ch < oneActive.cfg.C → ch ≠ 0 → readScaled oneActive (streamAddr oneActive.cfg ch i) =
      ⟨0#32, (readScaled oneActive (streamAddr oneActive.cfg 0 i)).s⟩) ∧
    -10 ≤ (readScaled oneActive (streamAddr oneActive.cfg 0 i)).s.toInt ∧
    (readScaled oneActive (streamAddr oneActive.cfg 0 i)).s.toInt ≤ 0 := by decide +kernel
/-- BlockEqualsItsStepsIssuedOneByOne, both clauses. -/
theorem witness_steps : ∀ s : State, s = idle Config.ex1 ∨ s = idle shortBlock →
    ∃ t1 t2 t3, exec .conv s = .next t1 ∧ exec .firb t1 = .next t2 ∧ exec .beam t2 = .next t3 :=
  fun _ _ => ⟨_, _, _, rfl, rfl, rfl⟩
theorem witness_steps_transform : (idle Config.ex1).cfg.M ≤ (idle Config.ex1).cfg.B ∧
    (∃ t4 t5, exec .dft (idle Config.ex1) = .next t4 ∧ exec .deliver t4 = .next t5) ∧
    (idle shortBlock).cfg.B < (idle shortBlock).cfg.M :=
  ⟨by decide, ⟨_, _, rfl, rfl⟩, by decide⟩
/-- StepRunsTheDecodedCommand, PhaseFollowsTheRunningOperation: a held command, with the schedule empty
and with the sequencer's turn on it. -/
theorem witness_held : (running 0x42000000).fsm = .busy (.command 0x42000000) ∧
    decode (running 0x42000000).cfg 0x42000000 = some .block ∧ (running 0x42000000).schedule = [] ∧
    ({ running 0x42000000 with schedule := [.sequencer] } : State).schedule = .sequencer :: [] := by
  decide
/-- StepKeepsTheMachineInvariant, StepKeepsMemoryWithinMappedEntries: a busy core with a listed byte of
RAW. -/
theorem witness_inv : Inv { running 0x42000000 with mem := [(0x100000, 7)] } ∧
    MemMapped { running 0x42000000 with mem := [(0x100000, 7)] } :=
  ⟨{ legal := by decide, cursor_lt := by decide, mem_wf := by decide
     held := by intro w h; cases h; decide
     taken := by intro h; cases h
     evt_clear := by decide },
   fun c hc => .inl ⟨0, by decide, by simp at hc; subst hc; decide⟩⟩
/-- CmdWriteIsTakenRejectedOrDropped: taken, rejected, dropped while busy, dropped in AUTO mode, at the
first and last byte address of CMD. -/
theorem witness_cmd : (0x00000C#24).toNat / 4 = 3 ∧ (0x00000F#24).toNat / 4 = 3 ∧
    (idle Config.ex1).fsm = .idle ∧ (idle Config.ex1).auto = false ∧
    (decode Config.ex1 0x42000000).isSome = true ∧ decode Config.ex1 0xFF000000 = none ∧
    ¬((running 0).fsm = .idle ∧ (running 0).auto = false) ∧
    ¬(({ idle Config.ex1 with auto := true } : State).fsm = .idle ∧
      ({ idle Config.ex1 with auto := true } : State).auto = false) := by decide
/-- AcceptThenCompleteRunsTheCommand. -/
theorem witness_accept : (idle Config.ex1).fsm = .idle ∧ (idle Config.ex1).auto = false ∧
    decode (idle Config.ex1).cfg 0x30000000 = some .beam ∧
    ({ idle Config.ex1 with schedule := [.hostWrite 0x00000C 0x30000000, .sequencer] } : State).schedule =
      .hostWrite 0x00000C 0x30000000 :: .sequencer :: [] := by decide
/-- DataWriteWhileBusyIsDropped: the first and last byte address of each writable range of EX1. -/
theorem witness_data_write : (running 0).cfg.Legal ∧ (running 0).fsm ≠ .idle ∧
    ∀ a ∈ [0x100#24, 0x17F#24, 0x100000#24, 0x10001F#24, 0x200000#24, 0x20003F#24, 0x400000#24,
      0x40001F#24, 0x500000#24, 0x50001F#24], DataWritable Config.ex1 a := by
  refine ⟨by decide, by decide, ?_⟩
  simp [DataWritable, Config.ex1]
/-- ReadOnlyAndUnmappedAddresses: the ends of each read-only range of EX1, and the addresses just past
the mapped ones. -/
theorem witness_read_only : (∀ a ∈ [0x0#24, 0x3#24, 0x10#24, 0x37#24, 0x300000#24, 0x30002F#24,
      0x600000#24, 0x600017#24, 0x700000#24, 0x70001F#24, 0x800000#24, 0x80001F#24, 0x900000#24,
      0x900007#24], ReadOnly Config.ex1 a) ∧
    ∀ a ∈ [0x38#24, 0xFF#24, 0x180#24, 0x100020#24, 0x200040#24, 0x300030#24, 0x400020#24,
      0x500020#24, 0x600018#24, 0x700020#24, 0x800020#24, 0x900008#24, 0xA00000#24, 0xFFFFFF#24],
      Unmapped Config.ex1 a := by
  constructor
  · simp [ReadOnly, Config.ex1]
  · simp [Unmapped, DataWritable, ReadOnly, ControlWritable, Config.ex1]
/-- VRegisterWordsReadBack, ScaledMemoryWordsReadBack, RawWriteKeepsTheLowBits, ReadOnlyMemoriesRead,
ControlPageReads: IDLE, legal, the last entry of each memory of EX1. -/
theorem witness_entries : (idle Config.ex1).fsm = .idle ∧ (idle Config.ex1).cfg.Legal ∧
    7 < (idle Config.ex1).cfg.C * (idle Config.ex1).cfg.B ∧ 3 < (idle Config.ex1).cfg.B ∧
    3 < 2 * ((idle Config.ex1).cfg.M / 2) ∧ 1 < (idle Config.ex1).cfg.C ∧
    2 < (idle Config.ex1).cfg.T ∧ 3 < (idle Config.ex1).cfg.L ∧
    5 < (idle Config.ex1).cfg.C * (idle Config.ex1).cfg.T := by decide
/-- HostReadHasNoSideEffect, OnlyCompletionChangesResultsWhileBusy: other agents' steps while busy. -/
theorem witness_other_agents :
    ({ running 0 with schedule := [.hostRead 0x000008] } : State).schedule = .hostRead 0x000008 :: [] ∧
    (running 0).fsm ≠ .idle ∧
    ¬ ResetNext { running 0 with schedule := [.rawWrite 0 5] } := by
  refine ⟨rfl, by decide, ?_⟩
  rintro (⟨rest, h⟩ | ⟨a, w, rest, h, _⟩) <;> simp at h
/-- CtrlWriteSetsTheEnables, ResetStepGivesTheResetValues: CTRL words without and with bit 31. -/
theorem witness_ctrl : (7#32).getLsbD 31 = false ∧ (0x80000007#32).getLsbD 31 = true := by decide
/-- InitialisationClearsTheDelayLines. -/
theorem witness_init : State.reset.cfg.Legal ∧ State.reset.fsm = .init := by decide
/-- A core that waits for a block in AUTO mode. -/
def waiting : State := { idle Config.ex1 with auto := true }

/-- ProducerWriteIsStoredOrDropped: the last entry, the one past it, and no request. -/
theorem witness_producer : waiting.cfg.Legal ∧
    ((waiting.auto = true ∧ waiting.fsm = .idle ∧ waiting.pending = false) ∧
      7 < waiting.cfg.C * waiting.cfg.B) ∧
    ¬(8 < waiting.cfg.C * waiting.cfg.B) ∧ (idle Config.ex1).auto = false := by decide
/-- AutomaticBlockRunsFromDoneToCompletion: each of the five clauses. -/
theorem witness_automatic : (waiting.auto = true ∧ waiting.fsm = .idle ∧ waiting.pending = false) ∧
    ¬((idle Config.ex1).auto = true) ∧ ({ waiting with pending := true } : State).pending = true ∧
    ({ waiting with fsm := .busy .autoblock } : State).fsm = .busy .autoblock ∧
    (idle Config.ex1).fsm = .idle ∧ (idle Config.ex1).auto = false := by decide
/-- FlagsStayUntilTheHostClearsThem: a STATUS write that clears DONE. -/
theorem witness_flag_clear : ∃ t, step { idle Config.ex1 with
      flags := flagSet [], schedule := [.hostWrite 0x000008 0x00000080] } = .next t ∧
    Flag.done.isIn (flagSet []) = true ∧ Flag.done.isIn t.flags = false :=
  ⟨_, rfl, by decide, by decide +kernel⟩
/-- SequencerBecomesQuiescent: the longest way, from a running command with a block pending. -/
theorem witness_quiescent :
    ({ running 0 with auto := true, pending := true } : State).schedule = [] := by decide

end Sys2Proof.Tests
end

/-! ## Scaled-value arithmetic (40_dpa.md): the laws of its tests and wraps, and what an operation
that raises no flag gives. -/

namespace Sys2Proof.Machine

/-! ### Wrapping and its tests (R12) -/

theorem wrap32_toInt (x : Int) : (wrap32 x).toInt = Int.bmod x (2 ^ 32) := BitVec.toInt_ofInt x

theorem wrap8_toInt (x : Int) : (wrap8 x).toInt = Int.bmod x (2 ^ 8) := BitVec.toInt_ofInt x

theorem fits32_iff {x : Int} : fits32 x = true ↔ -2147483648 ≤ x ∧ x ≤ 2147483647 :=
  decide_eq_true_iff

theorem fits8_iff {x : Int} : fits8 x = true ↔ -128 ≤ x ∧ x ≤ 127 := decide_eq_true_iff

theorem wrap32_toInt_of_fits {x : Int} (h : fits32 x = true) : (wrap32 x).toInt = x := by
  rw [fits32_iff] at h
  rw [wrap32_toInt]
  exact Int.bmod_eq_of_le_mul_two (by omega) (by omega)

theorem wrap8_toInt_of_fits {x : Int} (h : fits8 x = true) : (wrap8 x).toInt = x := by
  rw [fits8_iff] at h
  rw [wrap8_toInt]
  exact Int.bmod_eq_of_le_mul_two (by omega) (by omega)

@[simp] theorem cast_pow10 (k : Nat) : ((pow10 k : Int) : ℚ) = 10 ^ k := by simp [pow10]

/-! ### Empty flag sets -/

@[simp] theorem mask_ne_zero (f : Flag) : f.mask ≠ 0#17 := by cases f <;> decide

@[simp] theorem flagIf_eq_zero_iff (c : Bool) (f : Flag) : flagIf c f = 0#17 ↔ c = false := by
  cases c <;> simp [flagIf]

/-! ### The cases of `add` (R112) and `multiply` (R114) -/

theorem add_of_scale_eq {a b : Scaled} (h : a.s = b.s) :
    add a b = (⟨wrap32 (a.m.toInt + b.m.toInt), a.s⟩,
      flagIf (!fits32 (a.m.toInt + b.m.toInt)) .addWrap) := by
  simp [add, h]

theorem add_of_scale_gt {a b : Scaled} (h : b.s.toInt < a.s.toInt) : add a b = addAligned a b := by
  have hne : a.s ≠ b.s := fun e => by simp [e] at h
  simp [add, hne, h]

theorem add_of_scale_lt {a b : Scaled} (h : a.s.toInt < b.s.toInt) : add a b = addAligned b a := by
  have hne : a.s ≠ b.s := fun e => by simp [e] at h
  simp [add, hne, h.le]

theorem addAligned_of_far {hi lo : Scaled} (h : 10 < (hi.s.toInt - lo.s.toInt).toNat) :
    addAligned hi lo = (hi, Flag.addSkip.mask) := by
  simp [addAligned, h]

/-- The mantissa of the larger-scale operand at the smaller scale, before any wrap (R112). -/
def alignedMant (hi lo : Scaled) : Int := hi.m.toInt * pow10 (hi.s.toInt - lo.s.toInt).toNat

theorem addAligned_of_near {hi lo : Scaled} (h : ¬10 < (hi.s.toInt - lo.s.toInt).toNat) :
    addAligned hi lo =
      (⟨wrap32 ((wrap32 (alignedMant hi lo)).toInt + lo.m.toInt), lo.s⟩,
        flagIf (!fits32 (alignedMant hi lo)) .alignWrap |||
          flagIf (!fits32 ((wrap32 (alignedMant hi lo)).toInt + lo.m.toInt)) .addWrap) := by
  simp only [addAligned, alignedMant, if_neg h]

theorem multiply_of_fits {a b : Scaled} (h : fits32 (a.m.toInt * b.m.toInt) = true) :
    multiply a b = (⟨wrap32 (a.m.toInt * b.m.toInt), wrap8 (a.s.toInt + b.s.toInt)⟩,
      flagIf (!fits8 (a.s.toInt + b.s.toInt)) .scaleWrap) := by
  simp only [multiply, if_pos h]

theorem multiply_raises_mulRescale {a b : Scaled}
    (h : ¬fits32 (a.m.toInt * b.m.toInt) = true) : Flag.mulRescale.isIn (multiply a b).2 = true := by
  simp [multiply, h]

/-! ### Operations that raise no flag are exact in value (R14) -/

/-- Alignment keeps the quantity: `m * 10^(hi.s - lo.s)` at scale `lo.s` is `m` at scale `hi.s`. -/
theorem alignedMant_value {hi lo : Scaled} (h : lo.s.toInt ≤ hi.s.toInt) :
    (alignedMant hi lo : ℚ) * 10 ^ lo.s.toInt = value hi := by
  have hdiff : ((hi.s.toInt - lo.s.toInt).toNat : Int) + lo.s.toInt = hi.s.toInt := by omega
  rw [alignedMant, Int.cast_mul, cast_pow10, mul_assoc, ← zpow_natCast,
    ← zpow_add₀ (by norm_num), hdiff, value]

theorem value_addAligned {hi lo : Scaled} (hs : lo.s.toInt ≤ hi.s.toInt)
    (h : (addAligned hi lo).2 = 0#17) : value (addAligned hi lo).1 = value hi + value lo := by
  by_cases hfar : 10 < (hi.s.toInt - lo.s.toInt).toNat
  · simp [addAligned_of_far hfar] at h
  · rw [addAligned_of_near hfar] at h ⊢
    simp only [BitVec.or_eq_zero_iff, flagIf_eq_zero_iff, Bool.not_eq_false'] at h
    obtain ⟨hp, hsum⟩ := h
    rw [value, wrap32_toInt_of_fits hsum, wrap32_toInt_of_fits hp, Int.cast_add, add_mul,
      alignedMant_value hs, ← value]

theorem value_add_of_scale_eq {a b : Scaled} (hs : a.s = b.s) (h : (add a b).2 = 0#17) :
    value (add a b).1 = value a + value b := by
  rw [add_of_scale_eq hs] at h ⊢
  have hsum : fits32 (a.m.toInt + b.m.toInt) = true := by simpa using h
  rw [value, wrap32_toInt_of_fits hsum, value, value, ← hs]
  push_cast
  ring

theorem multiply_comm (a b : Scaled) : multiply a b = multiply b a := by
  simp only [multiply, Int.mul_comm a.m.toInt, Int.add_comm a.s.toInt]

theorem value_multiply {a b : Scaled} (h : (multiply a b).2 = 0#17) :
    value (multiply a b).1 = value a * value b := by
  by_cases hp : fits32 (a.m.toInt * b.m.toInt) = true
  · rw [multiply_of_fits hp] at h ⊢
    have hsc : fits8 (a.s.toInt + b.s.toInt) = true := by simpa using h
    rw [value, wrap32_toInt_of_fits hp, wrap8_toInt_of_fits hsc, zpow_add₀ (by norm_num), value,
      value]
    push_cast
    ring
  · have hflag := multiply_raises_mulRescale hp
    simp [h] at hflag

/-- Settles O9, by the three cases of R112: equal scales, first operand of larger scale, second. -/
theorem addIsExactWhenItRaisesNoFlag : Obligations.AddIsExactWhenItRaisesNoFlag := by
  intro a b h
  rcases lt_trichotomy a.s.toInt b.s.toInt with hlt | heq | hgt
  · rw [add_of_scale_lt hlt] at h ⊢
    rw [value_addAligned hlt.le h, add_comm]
  · exact value_add_of_scale_eq (BitVec.eq_of_toInt_eq heq) h
  · rw [add_of_scale_gt hgt] at h ⊢
    exact value_addAligned hgt.le h

/-- Settles O11: R114 reads its operands symmetrically, and only its undivided case raises no flag. -/
theorem multiplyCommutesAndIsExactWhenItRaisesNoFlag :
    Obligations.MultiplyCommutesAndIsExactWhenItRaisesNoFlag :=
  fun a b => ⟨multiply_comm a b, value_multiply⟩

end Sys2Proof.Machine

/-! ## Commands as one shape: the effect before completion, and what no effect touches. -/

namespace Sys2Proof.Machine

/-! ### Effect and completion (R198, R199) -/

/-- A V register takes a result, and EVT its flags (R115). -/
def storeResult (s : State) (rd : Reg) (r : Scaled × Flags) : State := (writeV s rd r.1).raise r.2

/-- What a legal command does before it completes; `exec_of_wellFormed` ties it to `exec`. -/
def effect (s : State) : Instr → State
  | .nop => s
  | .vadd rd ra rb => storeResult s rd (add (readV s ra) (readV s rb))
  | .vmul rd ra rb => storeResult s rd (multiply (readV s ra) (readV s rb))
  | .vmac rd ra rb => storeResult s rd (mulAdd (readV s rd) (readV s ra) (readV s rb))
  | .vfromi rd ra d => storeResult s rd (fromInteger (readV s ra).m.toInt d.toNat)
  | .vtoi rd ra => storeResult s rd (⟨(toInteger (readV s ra)).1, 0#8⟩, (toInteger (readV s ra)).2)
  | .firs rd ra ch =>
    writeV (firStep s ch.toNat (readV s ra)).1 rd (firStep s ch.toNat (readV s ra)).2
  | .firadv => cursorAdvance s
  | .firb => firBank s
  | .dft => dftBins s
  | .beam => beamAll s
  | .conv => convertAll s
  | .deliver => deliverBins s
  | .block => blockProcess s

/-- A command that meets its value check has its effect and completes. -/
theorem exec_of_wellFormed {i : Instr} {s : State} (h : i.wellFormed s.cfg = true) :
    exec i s = .next (complete (effect s i)) := by
  cases i
  case firs rd ra ch => exact if_pos (of_decide_eq_true h)
  case dft => exact if_pos (of_decide_eq_true h)
  all_goals rfl

/-- A command that fails its value check (R97) is rejected. -/
theorem exec_of_not_wellFormed {i : Instr} {s : State} (h : i.wellFormed s.cfg = false) :
    exec i s = .next (rejectIllegal s) := by
  cases i
  case firs rd ra ch => exact if_neg (of_decide_eq_false h)
  case dft => exact if_neg (of_decide_eq_false h)
  all_goals cases h

/-- How the completion step of any command ends. -/
theorem exec_cases (i : Instr) (s : State) :
    exec i s = .next (complete (effect s i)) ∨ exec i s = .next (rejectIllegal s) := by
  cases h : i.wellFormed s.cfg
  · exact .inr (exec_of_not_wellFormed h)
  · exact .inl (exec_of_wellFormed h)

/-! ### What an effect leaves alone -/

/-- Only V registers, memory, EVT, CURSOR, BLKCNT and the consumer trace differ. -/
def OnlyResults (s t : State) : Prop :=
  t = { s with v := t.v, mem := t.mem, evt := t.evt, cursor := t.cursor, blkcnt := t.blkcnt,
               trace := t.trace }

theorem onlyResults_refl (s : State) : OnlyResults s s := rfl

theorem OnlyResults.trans {s t u : State} (h1 : OnlyResults s t) (h2 : OnlyResults t u) :
    OnlyResults s u := by
  unfold OnlyResults at *; rw [h2, h1]

theorem OnlyMemCursor.results {s t : State} (h : OnlyMemCursor s t) : OnlyResults s t := by
  unfold OnlyMemCursor OnlyResults at *; rw [h]

theorem OnlyMem.results {s t : State} (h : OnlyMem s t) : OnlyResults s t := h.cursor.results

theorem OnlyResults.cfg_eq {s t : State} (h : OnlyResults s t) : t.cfg = s.cfg := by rw [h]

theorem OnlyResults.flags_eq {s t : State} (h : OnlyResults s t) : t.flags = s.flags := by rw [h]

theorem onlyResults_storeResult (s : State) (rd : Reg) (r : Scaled × Flags) :
    OnlyResults s (storeResult s rd r) := rfl

theorem onlyResults_writeV (s : State) (r : Reg) (x : Scaled) : OnlyResults s (writeV s r x) := rfl

theorem onlyResults_deliverBins (s : State) : OnlyResults s (deliverBins s) := rfl

theorem onlyResults_countBlock (s : State) : OnlyResults s (countBlock s) := rfl

theorem onlyResults_transformAndDeliver (s : State) : OnlyResults s (transformAndDeliver s) := by
  unfold transformAndDeliver
  split
  · exact (onlyMem_dftBins s).results.trans (onlyResults_deliverBins _)
  · exact onlyResults_refl s

theorem onlyResults_blockProcess (s : State) : OnlyResults s (blockProcess s) := by
  have hconv : OnlyResults s (convertAll s) := (onlyMem_convertAll s).results
  have hfir : OnlyResults s (firBank (convertAll s)) :=
    hconv.trans (onlyMemCursor_firBank _).results
  have hbeam : OnlyResults s (beamAll (firBank (convertAll s))) :=
    hfir.trans (onlyMem_beamAll _).results
  exact (hbeam.trans (onlyResults_transformAndDeliver _)).trans (onlyResults_countBlock _)

theorem onlyResults_effect (s : State) (i : Instr) : OnlyResults s (effect s i) := by
  cases i
  case nop => exact onlyResults_refl s
  case vadd | vmul | vmac | vfromi | vtoi => exact onlyResults_storeResult _ _ _
  case firs => exact (onlyMem_firStep _ _ _).results.trans (onlyResults_writeV _ _ _)
  case firadv => exact (onlyMemCursor_cursorAdvance s).results
  case firb => exact (onlyMemCursor_firBank s).results
  case dft => exact (onlyMem_dftBins s).results
  case beam => exact (onlyMem_beamAll s).results
  case conv => exact (onlyMem_convertAll s).results
  case deliver => exact onlyResults_deliverBins s
  case block => exact onlyResults_blockProcess s

/-! ### The canonical form of memory -/

theorem wf_transformAndDeliver {s : State} (h : Memory.wf s.mem) :
    Memory.wf (transformAndDeliver s).mem := by
  unfold transformAndDeliver
  split
  · exact wf_dftBins h
  · exact h

theorem wf_blockProcess {s : State} (h : Memory.wf s.mem) : Memory.wf (blockProcess s).mem := by
  rw [blockProcess, countBlock_mem]
  exact wf_transformAndDeliver (wf_beamAll (wf_firBank (wf_convertAll h)))

theorem wf_writeV {s : State} (r : Reg) (x : Scaled) (h : Memory.wf s.mem) :
    Memory.wf (writeV s r x).mem := h

theorem wf_effect {s : State} (i : Instr) (h : Memory.wf s.mem) : Memory.wf (effect s i).mem := by
  cases i
  case firs => exact wf_writeV _ _ (wf_firStep _ _ h)
  case firb => exact wf_firBank h
  case dft => exact wf_dftBins h
  case beam => exact wf_beamAll h
  case conv => exact wf_convertAll h
  case block => exact wf_blockProcess h
  all_goals exact h

/-! ### The cursor (R28) -/

/-- `T` is in its range of R9, and the cursor in `0..T-1`. -/
def CursorInRange (s : State) : Prop :=
  (1 ≤ s.cfg.T ∧ s.cfg.T ≤ 65536) ∧ s.cursor.toNat < s.cfg.T

theorem CursorInRange.congr {s t : State} (h : CursorInRange s) (hcfg : t.cfg = s.cfg)
    (hcur : t.cursor = s.cursor) : CursorInRange t := by
  rw [CursorInRange, hcfg, hcur]; exact h

theorem OnlyMem.cursorInRange {s t : State} (h : OnlyMem s t) (hs : CursorInRange s) :
    CursorInRange t :=
  hs.congr h.results.cfg_eq (by rw [h])

theorem cursorInRange_writeV {s : State} (r : Reg) (x : Scaled) (h : CursorInRange s) :
    CursorInRange (writeV s r x) := h.congr rfl rfl

theorem cursorInRange_cursorAdvance {s : State} (h : CursorInRange s) :
    CursorInRange (cursorAdvance s) := by
  obtain ⟨⟨hpos, hle⟩, -⟩ := h
  have hmod : (s.cursor.toNat + 1) % s.cfg.T < s.cfg.T := Nat.mod_lt _ hpos
  refine ⟨⟨hpos, hle⟩, ?_⟩
  rw [cursorAdvance_cursor, cursorAdvance_cfg, BitVec.toNat_ofNat, Nat.mod_eq_of_lt (by omega)]
  exact hmod

theorem cursorInRange_firBank {s : State} (h : CursorInRange s) : CursorInRange (firBank s) := by
  unfold firBank firSample
  refine foldl_range_inv CursorInRange _ _ _ h fun t n _ ht => cursorInRange_cursorAdvance ?_
  exact foldl_range_inv CursorInRange _ _ _ ht fun u ch _ hu =>
    (onlyMem_firStream n u ch).cursorInRange hu

theorem cursorInRange_transformAndDeliver {s : State} (h : CursorInRange s) :
    CursorInRange (transformAndDeliver s) := by
  unfold transformAndDeliver
  split
  · exact (onlyMem_dftBins s).cursorInRange h
  · exact h

theorem cursorInRange_blockProcess {s : State} (h : CursorInRange s) :
    CursorInRange (blockProcess s) := by
  have hfir : CursorInRange (firBank (convertAll s)) :=
    cursorInRange_firBank ((onlyMem_convertAll s).cursorInRange h)
  have hend := cursorInRange_transformAndDeliver ((onlyMem_beamAll _).cursorInRange hfir)
  exact hend.congr (countBlock_cfg _) (countBlock_cursor _)

theorem cursorInRange_effect {s : State} (i : Instr) (h : CursorInRange s) :
    CursorInRange (effect s i) := by
  cases i
  case firs => exact cursorInRange_writeV _ _ ((onlyMem_firStep s _ _).cursorInRange h)
  case firadv => exact cursorInRange_cursorAdvance h
  case firb => exact cursorInRange_firBank h
  case dft => exact (onlyMem_dftBins s).cursorInRange h
  case beam => exact (onlyMem_beamAll s).cursorInRange h
  case conv => exact (onlyMem_convertAll s).cursorInRange h
  case block => exact cursorInRange_blockProcess h
  all_goals exact h

end Sys2Proof.Machine

/-! ## The machine invariant: true after reset and kept by every step of every agent. -/

namespace Sys2Proof.Machine

/-! ### Whose step it is (R188) -/

/-- A step is the sequencer's turn, or the step of the agent of the next event. -/
theorem step_cases (s : State) :
    (s.schedule = [] ∧ step s = sequencerTurn s) ∨
    ∃ e rest, s.schedule = e :: rest ∧ step s = takeEvent e { s with schedule := rest } := by
  cases h : s.schedule with
  | nil => exact .inl ⟨rfl, by rw [step, h]⟩
  | cons e rest => exact .inr ⟨e, rest, rfl, by rw [step, h]⟩

/-- `blk_done` sets PENDING, or only sets OVERRUN. -/
theorem producerDone_cases (s : State) :
    (blkReq s = true ∧ producerDone s = { s with pending := true }) ∨
    producerDone s = s.setFlags Flag.overrun.mask := by
  by_cases h : blkReq s = true
  · exact .inl ⟨h, by rw [producerDone, if_pos h]⟩
  · exact .inr (by rw [producerDone, if_neg h])

theorem fsm_idle_of_blkReq {s : State} (h : blkReq s = true) : s.fsm = .idle :=
  ((blkReq_eq s).1 h).2.1

/-! ### The shapes of change that keep the invariant -/

theorem Inv.cursorInRange {s : State} (h : Inv s) : CursorInRange s := by
  obtain ⟨-, -, -, hT, -⟩ := h.legal
  exact ⟨hT, h.cursor_lt⟩

/-- A state that differs only in what the invariant does not speak of. -/
theorem Inv.congr {s t : State} (h : Inv s) (hcfg : t.cfg = s.cfg) (hcur : t.cursor = s.cursor)
    (hmem : t.mem = s.mem) (hfsm : t.fsm = s.fsm) (hcmd : t.cmd = s.cmd)
    (hpend : t.pending = s.pending) (hevt : t.evt = s.evt) : Inv t where
  legal := hcfg ▸ h.legal
  cursor_lt := by rw [hcfg, hcur]; exact h.cursor_lt
  mem_wf := by rw [hmem]; exact h.mem_wf
  held := by rw [hcfg, hfsm, hcmd]; exact h.held
  taken := by rw [hfsm, hpend]; exact h.taken
  evt_clear := by rw [hfsm, hevt]; exact h.evt_clear

/-- In IDLE the clauses about the running operation ask nothing. -/
theorem Inv.of_idle {s t : State} (h : Inv s) (hcfg : t.cfg = s.cfg) (hcur : CursorInRange t)
    (hmem : Memory.wf t.mem) (hfsm : t.fsm = .idle) : Inv t where
  legal := hcfg ▸ h.legal
  cursor_lt := hcur.2
  mem_wf := hmem
  held := by simp [hfsm]
  taken := by simp [hfsm]
  evt_clear := by simp [hfsm]

theorem inv_setFlags {s : State} (fs : Flags) (h : Inv s) : Inv (s.setFlags fs) :=
  h.congr rfl rfl rfl rfl rfl rfl rfl

theorem inv_rejectIllegal {s : State} (h : Inv s) : Inv (rejectIllegal s) :=
  h.of_idle rfl h.cursorInRange h.mem_wf rfl

theorem inv_applyReset {s : State} (h : Inv s) : Inv (applyReset s) where
  legal := h.legal
  cursor_lt := h.cursorInRange.1.1
  mem_wf := wf_applyReset h.mem_wf
  held := by simp
  taken := by simp
  evt_clear := by simp

theorem inv_complete {s t : State} (h : Inv s) (hres : OnlyResults s t) (hcur : CursorInRange t)
    (hmem : Memory.wf t.mem) : Inv (complete t) :=
  h.of_idle hres.cfg_eq hcur hmem rfl

theorem inv_writeRaw {s : State} (a : Nat) (w : Word) (h : Inv s) (hidle : s.fsm = .idle) :
    Inv (writeRaw s a w) :=
  h.of_idle (by simp) (h.cursorInRange.congr (by simp) (by simp)) (wf_writeRaw a w h.mem_wf)
    (by simpa using hidle)

theorem inv_writeHalf {s : State} (a : Nat) (w : Word) (q : Half) (h : Inv s)
    (hidle : s.fsm = .idle) : Inv (writeHalf s a w q) :=
  h.of_idle (by simp) (h.cursorInRange.congr (by simp) (by simp)) (wf_writeHalf a w q h.mem_wf)
    (by simpa using hidle)

/-! ### The step of each agent -/

theorem exec_keeps_inv {i : Instr} {s t : State} (h : Inv s) (ht : exec i s = .next t) : Inv t := by
  rcases exec_cases i s with he | he <;> rw [he] at ht <;> cases ht
  · exact inv_complete h (onlyResults_effect s i) (cursorInRange_effect i h.cursorInRange)
      (wf_effect i h.mem_wf)
  · exact inv_rejectIllegal h

theorem inv_startBlock {s : State} (h : Inv s) : Inv (startBlock s) where
  legal := h.legal
  cursor_lt := h.cursor_lt
  mem_wf := h.mem_wf
  held := by simp
  taken := by simp
  evt_clear := by simp

theorem sequencerTurn_keeps_inv {s t : State} (h : Inv s) (ht : sequencerTurn s = .next t) :
    Inv t := by
  rcases sequencerTurn_cases s with ⟨-, e⟩ | ⟨_, _, -, -, e⟩ | ⟨_, -, -, e⟩ | ⟨-, e⟩ | ⟨-, -, -, e⟩ |
    ⟨-, -, e⟩ <;> rw [e] at ht
  case inr.inl => exact exec_keeps_inv h ht
  all_goals cases ht
  · exact h.of_idle rfl h.cursorInRange (wf_finishInit h.mem_wf) rfl
  · exact inv_rejectIllegal h
  · exact inv_complete h (onlyResults_blockProcess s) (cursorInRange_blockProcess h.cursorInRange)
      (wf_blockProcess h.mem_wf)
  · exact inv_startBlock h
  · exact h

theorem writeCmd_keeps_inv {s : State} (w : Word) (h : Inv s) : Inv (writeCmd s w) := by
  rcases writeCmd_cases s w with ⟨-, -, ⟨i, hi⟩, e⟩ | ⟨-, -, -, e⟩ | ⟨-, e⟩ <;> rw [e]
  · exact
      { legal := h.legal
        cursor_lt := h.cursor_lt
        mem_wf := h.mem_wf
        held := by rintro w' hw'; cases hw'; exact ⟨rfl, by simp [hi]⟩
        taken := by simp
        evt_clear := by simp }
  · exact h.of_idle rfl h.cursorInRange h.mem_wf rfl
  · exact inv_setFlags _ h

theorem writeCtrl_keeps_inv {s : State} (w : Word) (h : Inv s) : Inv (writeCtrl s w) := by
  rcases writeCtrl_cases s w with ⟨-, e⟩ | ⟨-, e⟩ <;> rw [e]
  · exact inv_applyReset h
  · exact h.congr rfl rfl rfl rfl rfl rfl rfl

theorem hostWrite_keeps_inv {s : State} (a : HostAddr) (w : Word) (h : Inv s) :
    Inv (hostWrite s a w) := by
  rcases hostWrite_cases s a w with ⟨-, e⟩ | ⟨-, e⟩ | ⟨-, e⟩ | e | ⟨-, e⟩ | ⟨-, r, x, e⟩ |
    ⟨hidle, _, -, e⟩ | ⟨hidle, _, _, _, -, -, e⟩ <;> rw [e]
  · exact writeCtrl_keeps_inv w h
  · exact h.congr rfl rfl rfl rfl rfl rfl rfl
  · exact writeCmd_keeps_inv w h
  · exact inv_setFlags _ h
  · exact inv_setFlags _ h
  · exact h.congr rfl rfl rfl rfl rfl rfl rfl
  · exact inv_writeRaw _ _ h hidle
  · exact inv_writeHalf _ _ _ h hidle

theorem producerWrite_keeps_inv {s : State} (e : Nat) (w : Word) (h : Inv s) :
    Inv (producerWrite s e w) := by
  rcases producerWrite_cases s e w with ⟨hreq, -, heq⟩ | ⟨-, heq⟩ <;> rw [heq]
  · exact inv_writeRaw _ _ h (fsm_idle_of_blkReq hreq)
  · exact inv_setFlags _ h

theorem producerDone_keeps_inv {s : State} (h : Inv s) : Inv (producerDone s) := by
  rcases producerDone_cases s with ⟨hreq, e⟩ | e <;> rw [e]
  · have hidle : s.fsm = .idle := fsm_idle_of_blkReq hreq
    exact h.of_idle rfl h.cursorInRange h.mem_wf hidle
  · exact inv_setFlags _ h

theorem takeEvent_keeps_inv {e : Event} {s t : State} (h : Inv s) (ht : takeEvent e s = .next t) :
    Inv t := by
  cases e
  case sequencer => exact sequencerTurn_keeps_inv h ht
  all_goals cases ht
  case hostWrite a w => exact hostWrite_keeps_inv a w h
  case hostRead a => exact h.congr rfl rfl rfl rfl rfl rfl rfl
  case rawWrite i w => exact producerWrite_keeps_inv i w h
  case blkDone => exact producerDone_keeps_inv h
  case hardReset => exact inv_applyReset h

/-- Settles O35, by the agent whose step it is. -/
theorem stepKeepsTheMachineInvariant : Obligations.StepKeepsTheMachineInvariant := by
  intro s t h ht
  rcases step_cases s with ⟨-, e⟩ | ⟨ev, rest, -, e⟩ <;> rw [e] at ht
  · exact sequencerTurn_keeps_inv h ht
  · have hrest : Inv { s with schedule := rest } := h.congr rfl rfl rfl rfl rfl rfl rfl
    exact takeEvent_keeps_inv hrest ht

/-! ### Right after reset -/

theorem inv_resetWith {cfg : Config} (h : cfg.Legal) : Inv (State.resetWith cfg) where
  legal := h
  cursor_lt := by obtain ⟨-, -, -, ⟨hT, -⟩, -⟩ := h; exact hT
  mem_wf := wf_nil
  held := by simp [State.resetWith]
  taken := by simp [State.resetWith]
  evt_clear := by simp [State.resetWith]

/-- Settles O36: the reset values of R41 meet each clause, and EX1 is legal. -/
theorem resetStateMeetsTheMachineInvariant : Obligations.ResetStateMeetsTheMachineInvariant :=
  ⟨fun _ => inv_resetWith, inv_resetWith (by decide)⟩

end Sys2Proof.Machine

/-! ## The sticky flags (R24, R25): what clears one, and that none feeds back into a result. -/

namespace Sys2Proof.Machine

/-! ### Steps that raise flags and clear none -/

/-- Every flag of the first state is in the second. -/
def KeepsFlags (s t : State) : Prop := ∀ f : Flag, f.isIn s.flags = true → f.isIn t.flags = true

theorem keepsFlags_of_eq {s t : State} (h : t.flags = s.flags) : KeepsFlags s t :=
  fun f hf => by rw [h]; exact hf

theorem keepsFlags_of_or {s t : State} (fs : Flags) (h : t.flags = s.flags ||| fs) :
    KeepsFlags s t :=
  fun f hf => by rw [h, isIn_or, hf, Bool.true_or]

theorem keepsFlags_setFlags (s : State) (fs : Flags) : KeepsFlags s (s.setFlags fs) :=
  keepsFlags_of_or fs rfl

theorem keepsFlags_complete {s t : State} (h : OnlyResults s t) : KeepsFlags s (complete t) :=
  keepsFlags_of_or (t.evt ||| Flag.done.mask) (by
    rw [complete_flags, h.flags_eq, BitVec.or_assoc])

theorem keepsFlags_rejectIllegal (s : State) : KeepsFlags s (rejectIllegal s) :=
  keepsFlags_of_or (Flag.ill.mask ||| Flag.done.mask) (by rw [rejectIllegal_flags, BitVec.or_assoc])

theorem exec_keepsFlags {i : Instr} {s t : State} (ht : exec i s = .next t) : KeepsFlags s t := by
  rcases exec_cases i s with e | e <;> rw [e] at ht <;> cases ht
  · exact keepsFlags_complete (onlyResults_effect s i)
  · exact keepsFlags_rejectIllegal s

theorem sequencerTurn_keepsFlags {s t : State} (ht : sequencerTurn s = .next t) :
    KeepsFlags s t := by
  rcases sequencerTurn_cases s with ⟨-, e⟩ | ⟨_, _, -, -, e⟩ | ⟨_, -, -, e⟩ | ⟨-, e⟩ | ⟨-, -, -, e⟩ |
    ⟨-, -, e⟩ <;> rw [e] at ht
  case inr.inl => exact exec_keepsFlags ht
  all_goals cases ht
  · exact keepsFlags_of_eq rfl
  · exact keepsFlags_rejectIllegal s
  · exact keepsFlags_complete (onlyResults_blockProcess s)
  · exact keepsFlags_of_eq rfl
  · exact keepsFlags_of_eq rfl

theorem producerWrite_keepsFlags (s : State) (e : Nat) (w : Word) :
    KeepsFlags s (producerWrite s e w) := by
  rcases producerWrite_cases s e w with ⟨-, -, heq⟩ | ⟨-, heq⟩ <;> rw [heq]
  · exact keepsFlags_of_eq (writeRaw_flags ..)
  · exact keepsFlags_setFlags s _

theorem producerDone_keepsFlags (s : State) : KeepsFlags s (producerDone s) := by
  rcases producerDone_cases s with ⟨-, e⟩ | e <;> rw [e]
  · exact keepsFlags_of_eq rfl
  · exact keepsFlags_setFlags s _

theorem writeCmd_keepsFlags (s : State) (w : Word) : KeepsFlags s (writeCmd s w) := by
  rcases writeCmd_cases s w with ⟨-, -, -, e⟩ | ⟨-, -, -, e⟩ | ⟨-, e⟩ <;> rw [e]
  · exact keepsFlags_of_eq rfl
  · exact keepsFlags_rejectIllegal { s with cmd := w }
  · exact keepsFlags_setFlags s _

/-! ### The host's ways to clear a flag -/

/-- A STATUS write clears the flags whose bit is written 1 (R25). -/
theorem isIn_writeStatus (s : State) (w : Word) (f : Flag) :
    f.isIn (writeStatus s w).flags = (f.isIn s.flags && !w.getLsbD f.bit) := by
  obtain ⟨hlo, hhi⟩ := f.bit_range
  have hfield : f.bit - 7 < 17 := by omega
  have hbit : 7 + (f.bit - 7) = f.bit := by omega
  simp only [writeStatus_flags, Flag.isIn, BitVec.getLsbD_and, BitVec.getLsbD_not,
    BitVec.getLsbD_extractLsb', hfield, hbit, decide_true, Bool.true_and]

/-- A host write clears no flag, or resets the core, or is a STATUS write. -/
theorem hostWrite_flag_cases (s : State) (a : HostAddr) (w : Word) :
    KeepsFlags s (hostWrite s a w) ∨ (a.toNat / 4 = 1 ∧ w.getLsbD 31 = true) ∨
    (a.toNat / 4 = 2 ∧ hostWrite s a w = writeStatus s w) := by
  rcases hostWrite_cases s a w with ⟨ha, e⟩ | h | ⟨-, e⟩ | e | ⟨-, e⟩ | ⟨-, r, x, e⟩ |
    ⟨-, _, -, e⟩ | ⟨-, _, _, _, -, -, e⟩
  case inr.inl => exact .inr (.inr h)
  case inl =>
    rcases writeCtrl_cases s w with ⟨hw, -⟩ | ⟨-, e'⟩
    · exact .inr (.inl ⟨ha, hw⟩)
    · exact .inl (keepsFlags_of_eq (by rw [e, e']))
  all_goals rw [e]; left
  · exact writeCmd_keepsFlags s w
  · exact keepsFlags_setFlags s _
  · exact keepsFlags_setFlags s _
  · exact keepsFlags_of_eq rfl
  · exact keepsFlags_of_eq (writeRaw_flags ..)
  · exact keepsFlags_of_eq (writeHalf_flags ..)

/-- A step clears no flag, or is a reset, or is a STATUS write by the host. -/
theorem step_flag_cases {s t : State} (ht : step s = .next t) :
    KeepsFlags s t ∨ ResetNext s ∨ ∃ a w rest, s.schedule = .hostWrite a w :: rest ∧
      a.toNat / 4 = 2 ∧ ∀ f : Flag, f.isIn t.flags = (f.isIn s.flags && !w.getLsbD f.bit) := by
  rcases step_cases s with ⟨-, e⟩ | ⟨ev, rest, hsched, e⟩ <;> rw [e] at ht
  · exact .inl (sequencerTurn_keepsFlags ht)
  cases ev with
  | sequencer => exact .inl (sequencerTurn_keepsFlags (s := { s with schedule := rest }) ht)
  | hostWrite a w =>
    cases ht
    rcases hostWrite_flag_cases { s with schedule := rest } a w with h | ⟨ha, hw⟩ | ⟨ha, e'⟩
    · exact .inl h
    · exact .inr (.inl (.inr ⟨a, w, rest, hsched, ha, hw⟩))
    · exact .inr (.inr ⟨a, w, rest, hsched, ha, fun f => by rw [e', isIn_writeStatus]⟩)
  | hostRead a => cases ht; exact .inl (keepsFlags_of_eq rfl)
  | rawWrite i w => cases ht; exact .inl (producerWrite_keepsFlags { s with schedule := rest } i w)
  | blkDone => cases ht; exact .inl (producerDone_keepsFlags { s with schedule := rest })
  | hardReset => exact .inr (.inl (.inl ⟨rest, hsched⟩))

/-- Settles O57: every other step keeps the flags it finds, and a STATUS write clears by bit. -/
theorem flagsStayUntilTheHostClearsThem : Obligations.FlagsStayUntilTheHostClearsThem := by
  intro s t f ht hset hclear
  rcases step_flag_cases ht with hkeep | hreset | ⟨a, w, rest, hsched, ha, hflags⟩
  · simp [hkeep f hset] at hclear
  · exact .inl hreset
  · exact .inr ⟨a, w, rest, hsched, ha, by simpa [hflags, hset] using hclear⟩

/-! ### Runs that differ only in flags (R212) -/

/-- The states differ only in the flags of STATUS and EVT. -/
def SameButFlags (s u : State) : Prop := u = { s with flags := u.flags, evt := u.evt }

theorem sameButFlags_with (s : State) (fl ev : Flags) :
    SameButFlags s { s with flags := fl, evt := ev } := rfl

section

variable {s u : State}

theorem SameButFlags.cfg_eq (h : SameButFlags s u) : u.cfg = s.cfg := by rw [h]

theorem SameButFlags.cursor_eq (h : SameButFlags s u) : u.cursor = s.cursor := by rw [h]

theorem SameButFlags.mem_eq (h : SameButFlags s u) : u.mem = s.mem := by rw [h]

theorem SameButFlags.memSeed_eq (h : SameButFlags s u) : u.memSeed = s.memSeed := by rw [h]

theorem SameButFlags.readV_eq (h : SameButFlags s u) (r : Reg) : readV u r = readV s r :=
  readV_congr (by rw [h]) r

theorem SameButFlags.readScaled_eq (h : SameButFlags s u) (a : Nat) :
    readScaled u a = readScaled s a :=
  readScaled_congr h.mem_eq h.memSeed_eq a

theorem SameButFlags.readRaw_eq (h : SameButFlags s u) (ch n : Nat) :
    readRaw u ch n = readRaw s ch n := by
  rw [readRaw, readRaw, h.cfg_eq, readWord_congr h.mem_eq h.memSeed_eq]

/-- Any flags raised on either side. -/
theorem SameButFlags.raise (h : SameButFlags s u) (fs gs : Flags) :
    SameButFlags (s.raise fs) (u.raise gs) := by
  rw [h]; rfl

theorem SameButFlags.complete (h : SameButFlags s u) : SameButFlags (complete s) (complete u) := by
  rw [h]; rfl

theorem SameButFlags.rejectIllegal (h : SameButFlags s u) :
    SameButFlags (rejectIllegal s) (rejectIllegal u) := by
  rw [h]; rfl

theorem SameButFlags.writeV (h : SameButFlags s u) (r : Reg) (x : Scaled) :
    SameButFlags (writeV s r x) (writeV u r x) := by
  rw [h]; rfl

theorem SameButFlags.storeResult (h : SameButFlags s u) (rd : Reg) (r : Scaled × Flags) :
    SameButFlags (storeResult s rd r) (storeResult u rd r) :=
  (h.writeV rd r.1).raise r.2 r.2

theorem SameButFlags.writeByte (h : SameButFlags s u) (a : Nat) (b : Byte) :
    SameButFlags (writeByte s a b) (writeByte u a b) := by
  rw [h]; rfl

theorem SameButFlags.writeWord (h : SameButFlags s u) (a : Nat) (w : Word) :
    SameButFlags (writeWord s a w) (writeWord u a w) :=
  (((h.writeByte _ _).writeByte _ _).writeByte _ _).writeByte _ _

theorem SameButFlags.writeScaled (h : SameButFlags s u) (a : Nat) (x : Scaled) :
    SameButFlags (writeScaled s a x) (writeScaled u a x) :=
  (h.writeWord _ _).writeByte _ _

theorem SameButFlags.cursorAdvance (h : SameButFlags s u) :
    SameButFlags (cursorAdvance s) (cursorAdvance u) := by
  rw [h]; rfl

theorem SameButFlags.countBlock (h : SameButFlags s u) :
    SameButFlags (countBlock s) (countBlock u) := by
  rw [h]; rfl

theorem SameButFlags.emitAll (h : SameButFlags s u) (ws : List Emitted) :
    SameButFlags (emitAll s ws) (emitAll u ws) := by
  rw [h]; rfl

end

/-! ### The loops from two such states -/

section

variable {s u : State}

theorem SameButFlags.tapSum_eq (h : SameButFlags s u) (ch : Nat) : tapSum u ch = tapSum s ch := by
  simp only [tapSum, tapIndex, h.cfg_eq, h.cursor_eq, h.readScaled_eq]

theorem SameButFlags.pushDl (h : SameButFlags s u) (ch : Nat) (x : Scaled) :
    SameButFlags (pushDl s ch x) (pushDl u ch x) := by
  unfold Machine.pushDl
  rw [h.cfg_eq, h.cursor_eq]
  exact h.writeScaled _ _

theorem SameButFlags.firStep_sum (h : SameButFlags s u) (ch : Nat) (x : Scaled) :
    (firStep u ch x).2 = (firStep s ch x).2 :=
  congrArg Prod.fst ((h.pushDl ch x).tapSum_eq ch)

theorem SameButFlags.firStep (h : SameButFlags s u) (ch : Nat) (x : Scaled) :
    SameButFlags (firStep s ch x).1 (firStep u ch x).1 :=
  (h.pushDl ch x).raise _ _

theorem SameButFlags.firStream (h : SameButFlags s u) (n ch : Nat) :
    SameButFlags (firStream n s ch) (firStream n u ch) := by
  simp only [Machine.firStream, h.cfg_eq, h.readScaled_eq, h.firStep_sum]
  exact (h.firStep _ _).writeScaled _ _

theorem SameButFlags.firSample (h : SameButFlags s u) (n : Nat) :
    SameButFlags (firSample s n) (firSample u n) := by
  unfold Machine.firSample
  rw [h.cfg_eq]
  exact (List.foldl_rel h fun ch _ _ _ hk => hk.firStream n ch).cursorAdvance

theorem SameButFlags.firBank (h : SameButFlags s u) : SameButFlags (firBank s) (firBank u) := by
  unfold Machine.firBank
  rw [h.cfg_eq]
  exact List.foldl_rel h fun n _ _ _ hk => hk.firSample n

theorem SameButFlags.convEntry {k l : State} (h : SameButFlags s u) (hk : SameButFlags k l)
    (ch n : Nat) : SameButFlags (convEntry s ch k n) (convEntry u ch l n) := by
  simp only [Machine.convEntry, convOne, h.cfg_eq, h.readRaw_eq]
  exact (hk.writeScaled _ _).raise _ _

theorem SameButFlags.convChannel {k l : State} (h : SameButFlags s u) (hk : SameButFlags k l)
    (ch : Nat) : SameButFlags (convChannel s k ch) (convChannel u l ch) := by
  unfold Machine.convChannel
  rw [h.cfg_eq]
  exact List.foldl_rel hk fun n _ _ _ hj => h.convEntry hj ch n

theorem SameButFlags.convertAll (h : SameButFlags s u) :
    SameButFlags (convertAll s) (convertAll u) := by
  unfold Machine.convertAll
  rw [h.cfg_eq]
  exact List.foldl_rel h fun ch _ _ _ hk => h.convChannel hk ch

theorem SameButFlags.beamSum_eq (h : SameButFlags s u) (i : Nat) : beamSum u i = beamSum s i := by
  simp only [beamSum, h.cfg_eq, h.readScaled_eq]

theorem SameButFlags.beamOut_eq (h : SameButFlags s u) (i : Nat) : beamOut u i = beamOut s i := by
  unfold beamOut
  rw [h.beamSum_eq, h.cfg_eq]

theorem SameButFlags.beamAll (h : SameButFlags s u) : SameButFlags (beamAll s) (beamAll u) := by
  unfold Machine.beamAll
  rw [h.cfg_eq]
  refine List.foldl_rel h fun i _ k l hk => ?_
  simp only [writeOut, h.beamOut_eq]
  exact (hk.writeScaled _ _).raise _ _

theorem SameButFlags.binSum_eq (h : SameButFlags s u) (table : Config → Nat → Scaled) (k : Nat) :
    binSum u table k = binSum s table k := by
  simp only [binSum, h.cfg_eq, h.readScaled_eq]

theorem SameButFlags.dftBins (h : SameButFlags s u) : SameButFlags (dftBins s) (dftBins u) := by
  unfold Machine.dftBins
  rw [h.cfg_eq]
  refine List.foldl_rel h fun i _ k l hk => ?_
  simp only [writeBin, h.binSum_eq]
  exact ((hk.writeScaled _ _).writeScaled _ _).raise _ _

theorem SameButFlags.binWord_eq (h : SameButFlags s u) : binWord u = binWord s := by
  funext k
  simp only [binWord, h.cfg_eq, h.readScaled_eq]

theorem SameButFlags.deliverBins (h : SameButFlags s u) :
    SameButFlags (deliverBins s) (deliverBins u) := by
  unfold Machine.deliverBins
  rw [h.cfg_eq, h.binWord_eq]
  exact h.emitAll _

theorem SameButFlags.transformAndDeliver (h : SameButFlags s u) :
    SameButFlags (transformAndDeliver s) (transformAndDeliver u) := by
  unfold Machine.transformAndDeliver
  rw [h.cfg_eq]
  split
  · exact h.dftBins.deliverBins
  · exact h

theorem SameButFlags.blockProcess (h : SameButFlags s u) :
    SameButFlags (blockProcess s) (blockProcess u) :=
  h.convertAll.firBank.beamAll.transformAndDeliver.countBlock

theorem SameButFlags.effect (h : SameButFlags s u) (i : Instr) :
    SameButFlags (effect s i) (effect u i) := by
  cases i <;> simp only [Machine.effect, h.readV_eq]
  case nop => exact h
  case vadd | vmul | vmac | vfromi | vtoi => exact h.storeResult _ _
  case firs =>
    rw [h.firStep_sum]
    exact (h.firStep _ _).writeV _ _
  case firadv => exact h.cursorAdvance
  case firb => exact h.firBank
  case dft => exact h.dftBins
  case beam => exact h.beamAll
  case conv => exact h.convertAll
  case deliver => exact h.deliverBins
  case block => exact h.blockProcess

end

/-- Settles O59: no effect reads a flag, so it keeps two states alike but for flags, and so does the
way the command ends. -/
theorem flagsNeverChangeAResult : Obligations.FlagsNeverChangeAResult := by
  intro i s fl ev
  have h := sameButFlags_with s fl ev
  cases hwf : i.wellFormed s.cfg
  · exact ⟨_, _, exec_of_not_wellFormed hwf, exec_of_not_wellFormed hwf, h.rejectIllegal⟩
  · exact ⟨_, _, exec_of_wellFormed hwf, exec_of_wellFormed hwf, (h.effect i).complete⟩

end Sys2Proof.Machine

/-! ## The control page (R21 to R29) and the phase (R39), as the host sees and sets them. -/

namespace Sys2Proof.Machine

/-! ### Reaching a control register -/

/-- The address reaches a control register. -/
abbrev ReachesCtl (a : HostAddr) (r : CtlReg) : Prop :=
  a.toNat < 0x100 ∧ ctlRegs[a.toNat / 4]? = some r

theorem hostWrite_ctl {a : HostAddr} {r : CtlReg} (h : ReachesCtl a r) (s : State) (w : Word) :
    hostWrite s a w = writeLoc s w (.reg r) := by
  rw [hostWrite, locate_ctl s.cfg a h.1 h.2]

/-- No write set holds a control register but CURSOR and BLKCNT (R240), so the others read their
value at any time. -/
theorem readData_ctl {a : HostAddr} {r : CtlReg} (h : ReachesCtl a r ∧ r ≠ .cursor ∧ r ≠ .blkcnt)
    (s : State) : readData s a = readCtl s r := by
  obtain ⟨hreach, hcur, hblk⟩ := h
  have hloc : locate s.cfg a = .reg r := locate_ctl s.cfg a hreach.1 hreach.2
  have hfixed : ¬ Writable (locate s.cfg a) := by simp [hloc, Writable, hcur, hblk]
  rw [readData_fixed hfixed, hloc, readLoc]

theorem readData_ctl_idle {s : State} {a : HostAddr} {r : CtlReg} (h : ReachesCtl a r)
    (hidle : s.fsm = .idle) : readData s a = readCtl s r := by
  rw [readData_idle a hidle, locate_ctl s.cfg a h.1 h.2, readLoc]

/-- A CFG register reads its parameter, which fits the word in every legal configuration (R27). -/
theorem readData_cfg {s : State} {a : HostAddr} {r : CtlReg} {n : Nat}
    (h : ReachesCtl a r ∧ r ≠ .cursor ∧ r ≠ .blkcnt) (hval : readCtl s r = BitVec.ofNat 32 n)
    (hn : n ≤ 2147483647) : (readData s a).toNat = n := by
  rw [readData_ctl h, hval, BitVec.toNat_ofNat, Nat.mod_eq_of_lt (by omega)]

/-- Settles O46, register by register. -/
theorem controlPageReads : Obligations.ControlPageReads := by
  intro s hlegal
  obtain ⟨⟨-, hC⟩, ⟨-, hB⟩, -, ⟨-, hT⟩, -, ⟨-, hM⟩, ⟨-, hL⟩, hdec, ⟨-, hraw⟩, hdc, -⟩ := hlegal
  exact ⟨readData_ctl (r := .id) (by decide) s, readData_ctl (r := .ctrl) (by decide) s,
    readData_ctl (r := .status) (by decide) s, readData_ctl (r := .cmd) (by decide) s,
    fun hidle => ⟨readData_ctl_idle (r := .cursor) (by decide) hidle,
      readData_ctl_idle (r := .blkcnt) (by decide) hidle⟩,
    readData_cfg (r := .cfgC) (by decide) rfl (by omega),
    readData_cfg (r := .cfgB) (by decide) rfl (by omega),
    readData_cfg (r := .cfgT) (by decide) rfl (by omega),
    readData_cfg (r := .cfgM) (by decide) rfl (by omega),
    readData_cfg (r := .cfgL) (by decide) rfl (by omega),
    readData_cfg (r := .cfgDec) (by decide) rfl (by omega),
    readData_cfg (r := .cfgRawBits) (by decide) rfl (by omega),
    readData_cfg (r := .cfgDcOff) (by decide) rfl hdc⟩

/-! ### STATUS -/

/-- STATUS.PHASE is bits 3:1 of the word (R23). -/
theorem statusWord_phase (s : State) : (statusWord s).extractLsb' 1 3 = phase s := by
  apply BitVec.eq_of_getLsbD_eq
  intro i hi
  rw [BitVec.getLsbD_extractLsb', statusWord_bit, if_neg (by omega), if_pos (by omega)]
  simp [hi]

/-- Settles O48, from the bits of the word one by one. -/
theorem statusWordLayout : Obligations.StatusWordLayout := by
  intro s
  refine ⟨?busy, ?pending, ?blkreq, ?zero, ?flags, ?top, ?phase⟩
  case busy => rw [statusWord_bit]; exact isBusy_eq s
  case pending => exact statusWord_bit s 4
  case blkreq => rw [statusWord_bit]; exact blkReq_eq s
  case zero => exact statusWord_bit s 6
  case flags =>
    intro f
    obtain ⟨hlo, hhi⟩ := f.bit_range
    rw [statusWord_bit, if_neg (by omega), if_neg (by omega), if_neg (by omega), if_neg (by omega),
      if_neg (by omega), if_pos hhi, Flag.isIn]
  case top =>
    intro b hb
    rw [statusWord_bit, if_neg (by omega), if_neg (by omega), if_neg (by omega), if_neg (by omega),
      if_neg (by omega), if_neg (by omega)]
  case phase =>
    rw [← statusWord_phase s, BitVec.extractLsb'_toNat, Nat.shiftRight_eq_div_pow]

/-- Settles O50: the write reaches STATUS, whose write rule is `isIn_writeStatus`. -/
theorem statusWriteClearsTheWrittenFlags : Obligations.StatusWriteClearsTheWrittenFlags :=
  fun s w => ⟨writeStatus s w, hostWrite_ctl (r := .status) (by decide) s w, rfl,
    isIn_writeStatus s w⟩

/-! ### PHASE -/

theorem phase_of_command {s : State} {w : Word} {i : Instr} (hf : s.fsm = .busy (.command w))
    (hd : decode s.cfg w = some i) : phase s = Instr.phase s.fresh i := by
  simp only [phase, hf, hd]

/-- The phase shown during a block is one of 1 to 5, whatever the free value. -/
theorem freePhase_range (n : Nat) :
    1 ≤ (BitVec.ofNat 3 (1 + (Config.freePhase n).val)).toNat ∧
      (BitVec.ofNat 3 (1 + (Config.freePhase n).val)).toNat ≤ 5 := by
  have hlt : (Config.freePhase n).val < 5 := (Config.freePhase n).isLt
  rw [BitVec.toNat_ofNat, Nat.mod_eq_of_lt (by omega)]
  omega

/-- Settles O49, by the sequencer's state and the command it holds. -/
theorem phaseFollowsTheRunningOperation : Obligations.PhaseFollowsTheRunningOperation := by
  intro s
  refine ⟨fun hf => by rw [phase, hf], fun hf => by rw [phase, hf], fun hf => ?_,
    fun w i hf hd => ?_⟩
  · rw [phase, hf]
    exact freePhase_range s.fresh
  · have hphase := phase_of_command hf hd
    cases i
    case block =>
      rw [hphase]
      exact freePhase_range s.fresh
    all_goals exact hphase

/-! ### CTRL and reset -/

/-- CTRL reads the three enables, which a write took from its low bits. -/
theorem ctrlWord_of_enables {s : State} {w : Word} (ha : s.auto = w.getLsbD 0)
    (hi : s.ie = w.getLsbD 1) (he : s.iee = w.getLsbD 2) : ctrlWord s = w &&& 7#32 := by
  apply BitVec.eq_of_getLsbD_eq
  intro i hi32
  rw [ctrlWord_bit, BitVec.getLsbD_and, ha, hi, he]
  interval_cases i <;> simp

/-- Settles O51: the write that is not a reset, and the bits it set. -/
theorem ctrlWriteSetsTheEnables : Obligations.CtrlWriteSetsTheEnables := by
  intro s w hw
  have hwrite : hostWrite s 0x000004 w = writeCtrl s w := hostWrite_ctl (r := .ctrl) (by decide) s w
  rcases writeCtrl_cases s w with ⟨hw', -⟩ | ⟨-, e⟩
  · cases hw.symm.trans hw'
  · refine ⟨_, hwrite.trans e, rfl, ?_⟩
    rw [readData_ctl (r := .ctrl) (by decide)]
    exact ctrlWord_of_enables rfl rfl rfl

/-- A CTRL write with bit 31 = 1 is the reset step of `rst_n`. -/
theorem hostWrite_ctrl_reset (s : State) {w : Word} (hw : w.getLsbD 31 = true) :
    hostWrite s 0x000004 w = applyReset s :=
  (hostWrite_ctl (r := .ctrl) (by decide) s w).trans (if_pos hw)

theorem readV_applyReset (s : State) (r : Reg) : readV (applyReset s) r = Scaled.zero := by
  simp [readV]

/-- Reset keeps the DL bytes: an unlisted one reads 0 before and after (assumption 4). -/
theorem readByte_applyReset_dl (s : State) {a : Nat} (h : inDl a = true) :
    readByte (applyReset s) a = readByte s a := by
  have hcell : cellAt (applyReset s).mem a = cellAt s.mem a := by
    rw [applyReset_mem, cellAt_filter, if_pos h]
  simp only [readByte, hcell, unlisted, h, if_true]

/-- After reset STATUS has BUSY = 1 and PHASE = 7 alone. -/
theorem statusWord_applyReset (s : State) : statusWord (applyReset s) = 0x0000000F#32 := by
  have hphase : phase (applyReset s) = 7 := rfl
  have hbusy : isBusy (applyReset s) = true := rfl
  have hreq : blkReq (applyReset s) = false := rfl
  rw [statusWord, hphase, hbusy, hreq, applyReset_flags, applyReset_pending]
  decide

/-- Settles O52: both are `applyReset`. -/
theorem resetStepGivesTheResetValues : Obligations.ResetStepGivesTheResetValues := by
  intro s w hw
  have hsoft : takeEvent (.hostWrite 0x000004 w) s = .next (applyReset s) :=
    congrArg Host.Outcome.next (hostWrite_ctrl_reset s hw)
  exact ⟨applyReset s, rfl, hsoft, rfl, rfl, rfl, rfl, rfl, rfl, rfl, readV_applyReset s, rfl, rfl,
    rfl, statusWord_applyReset s, rfl, rfl, rfl, rfl, rfl, rfl,
    fun a hlo hhi => readByte_applyReset_dl s ((inDl_iff a).2 ⟨hlo, hhi⟩)⟩

end Sys2Proof.Machine

/-! ## Data words on the host bus (R31, R32, R61, R62): where an entry's words are, what a write of
one stores, and what reads back. -/

namespace Sys2Proof.Machine

/-! ### Where an entry's words are -/

/-- Byte offset of a word in its scaled value (R31). -/
def Half.offset : Half → Nat
  | .mant => 0
  | .scale => 4

theorem halfAt_offset (k : Nat) (q : Half) : halfAt (8 * k + q.offset) = q := by
  cases q <;> simp only [halfAt, Half.offset]
  case mant => exact if_pos (by omega)
  case scale => exact if_neg (by omega)

theorem Half.offset_lt (q : Half) : q.offset < 8 := by cases q <;> decide

theorem scaledLoc_entry {n e off : Nat} {q : Half} (f : Nat → Half → Loc) (he : e < n)
    (hoff : off = 8 * e + q.offset) : scaledLoc n off f = f e q := by
  have hq := q.offset_lt
  have hdiv : off / 8 = e := by omega
  rw [scaledLoc, hdiv, if_pos he, hoff, halfAt_offset]

theorem wordLoc_entry {n e off : Nat} (f : Nat → Loc) (he : e < n) (hoff : off = 4 * e) :
    wordLoc n off f = f e := by
  have hdiv : off / 4 = e := by omega
  rw [wordLoc, hdiv, if_pos he]

/-- Number of scaled values in a memory; BIN has two per bin (R62). -/
def ScaledMem.count (cfg : Config) : ScaledMem → Nat
  | .stream => cfg.C * cfg.B
  | .dl => cfg.C * cfg.T
  | .out => cfg.B
  | .bin => 2 * (cfg.M / 2)

/-- Base address of a table (R62). -/
def Table.base : Table → Nat
  | .coef => coefBase
  | .cos => cosBase
  | .sin => sinBase

/-- Number of entries of a table (R37). -/
def Table.count (cfg : Config) : Table → Nat
  | .coef => cfg.T
  | .cos => cfg.L
  | .sin => cfg.L

/-- No region is larger than R9 allows, so none runs over its range of R62. -/
theorem ScaledMem.count_le {cfg : Config} (h : cfg.Legal) (m : ScaledMem) :
    m.count cfg ≤ 131072 := by
  obtain ⟨-, ⟨-, hB⟩, hCB, -, hCT, ⟨-, hM⟩, -⟩ := h
  cases m <;> simp only [ScaledMem.count] <;> omega

theorem Table.count_le {cfg : Config} (h : cfg.Legal) (t : Table) : t.count cfg ≤ 131072 := by
  obtain ⟨-, -, -, ⟨-, hT⟩, -, -, ⟨-, hL⟩, -⟩ := h
  cases t <;> simp only [Table.count] <;> omega

theorem toNat_hostAddr {n : Nat} (h : n < 0xA00000) : (BitVec.ofNat 24 n).toNat = n := by
  rw [BitVec.toNat_ofNat, Nat.mod_eq_of_lt (by omega)]

/-- A region of scaled values reaches every word of its entries, since it is within its range. -/
theorem locate_scaledWord {cfg : Config} {base n e : Nat} {f : Nat → Half → Loc}
    (hregion : ∀ a : HostAddr, base ≤ a.toNat → a.toNat < base + 0x100000 →
      locate cfg a = scaledLoc n (a.toNat - base) f)
    (hbase : base ≤ 0x800000) (hn : n ≤ 131072) (he : e < n) (q : Half) :
    locate cfg (BitVec.ofNat 24 (base + 8 * e + q.offset)) = f e q := by
  have hq := q.offset_lt
  have ha := toNat_hostAddr (n := base + 8 * e + q.offset) (by omega)
  rw [hregion _ (by omega) (by omega)]
  exact scaledLoc_entry f he (by omega)

theorem locate_entry {cfg : Config} (hlegal : cfg.Legal) (m : ScaledMem) {e : Nat}
    (he : e < m.count cfg) (q : Half) :
    locate cfg (BitVec.ofNat 24 (m.addr e + q.offset)) = .entry m e q := by
  have hcount := m.count_le hlegal
  cases m
  case stream => exact locate_scaledWord (locate_stream cfg) (by decide) hcount he q
  case dl => exact locate_scaledWord (locate_dl cfg) (by decide) hcount he q
  case out => exact locate_scaledWord (locate_out cfg) (by decide) hcount he q
  case bin => exact locate_scaledWord (locate_bin cfg) (by decide) hcount he q

theorem locate_table {cfg : Config} (hlegal : cfg.Legal) (t : Table) {e : Nat}
    (he : e < t.count cfg) (q : Half) :
    locate cfg (BitVec.ofNat 24 (t.base + 8 * e + q.offset)) = .table t e q := by
  have hcount := t.count_le hlegal
  cases t
  case coef => exact locate_scaledWord (locate_coef cfg) (by decide) hcount he q
  case cos => exact locate_scaledWord (locate_cos cfg) (by decide) hcount he q
  case sin => exact locate_scaledWord (locate_sin cfg) (by decide) hcount he q

theorem locate_rawEntry {cfg : Config} (hlegal : cfg.Legal) {e : Nat} (he : e < cfg.C * cfg.B) :
    locate cfg (BitVec.ofNat 24 (rawBase + 4 * e)) = .raw e := by
  obtain ⟨-, -, hCB, -⟩ := hlegal
  have ha : (BitVec.ofNat 24 (rawBase + 4 * e)).toNat = 0x100000 + 4 * e :=
    toNat_hostAddr (n := 0x100000 + 4 * e) (by omega)
  rw [locate_raw _ _ (by omega) (by omega)]
  exact wordLoc_entry _ he (by omega)

theorem locate_delayEntry {cfg : Config} (hlegal : cfg.Legal) {ch : Nat} (hch : ch < cfg.C) :
    locate cfg (BitVec.ofNat 24 (delayBase + 4 * ch)) = .delay ch := by
  obtain ⟨⟨-, hC⟩, -⟩ := hlegal
  have ha : (BitVec.ofNat 24 (delayBase + 4 * ch)).toNat = 0x900000 + 4 * ch :=
    toNat_hostAddr (n := 0x900000 + 4 * ch) (by omega)
  rw [locate_delay _ _ (by omega) (by omega)]
  exact wordLoc_entry _ hch (by omega)

theorem locate_vWord (cfg : Config) (i : Reg) (q : Half) :
    locate cfg (BitVec.ofNat 24 (0x100 + 8 * i.toNat + q.offset)) = .v i q := by
  have hq := q.offset_lt
  have hi : i.toNat < 16 := i.isLt
  have ha := toNat_hostAddr (n := 0x100 + 8 * i.toNat + q.offset) (by omega)
  have hreg : (0x100 + 8 * i.toNat + q.offset - 0x100) / 8 = i.toNat := by omega
  have hoff : 0x100 + 8 * i.toNat + q.offset = 8 * (32 + i.toNat) + q.offset := by omega
  rw [locate_v _ _ (by omega) (by omega), ha, hreg, hoff, halfAt_offset, BitVec.ofNat_toNat,
    BitVec.setWidth_eq]

/-! ### V registers -/

theorem whenIdle_idle {s : State} (t : State) (h : s.fsm = .idle) : whenIdle s t = t := by
  rcases whenIdle_cases s t with ⟨hbusy, -⟩ | ⟨-, e⟩
  · exact absurd h hbusy
  · exact e

theorem hostWrite_vWord {s : State} (hidle : s.fsm = .idle) (i : Reg) (q : Half) (w : Word) :
    hostWrite s (BitVec.ofNat 24 (0x100 + 8 * i.toNat + q.offset)) w =
      writeV s i (withHalf (readV s i) w q) := by
  rw [hostWrite, locate_vWord, writeLoc, whenIdle_idle _ hidle]

theorem readData_vWord {s : State} (hidle : s.fsm = .idle) (i : Reg) (q : Half) :
    readData s (BitVec.ofNat 24 (0x100 + 8 * i.toNat + q.offset)) = halfWord (readV s i) q := by
  rw [readData_idle _ hidle, locate_vWord, readLoc]

/-- A word of a V register written by the host: the one field, and the read-back. -/
theorem vWord_readBack {s : State} (hidle : s.fsm = .idle) (i : Reg) (q : Half) (w : Word) :
    ∃ t, hostWrite s (BitVec.ofNat 24 (0x100 + 8 * i.toNat + q.offset)) w = t ∧
      t = { s with v := t.v } ∧ KeepsVBut i s t ∧ readV t i = withHalf (readV s i) w q ∧
      readData t (BitVec.ofNat 24 (0x100 + 8 * i.toNat + q.offset)) =
        halfWord (withHalf (readV s i) w q) q := by
  have hread : readV (writeV s i (withHalf (readV s i) w q)) i = withHalf (readV s i) w q := by
    rw [readV_writeV, if_pos rfl]
  refine ⟨_, hostWrite_vWord hidle i q w, rfl, fun r hr => ?_, hread, ?_⟩
  · rw [readV_writeV, if_neg hr]
  · rw [readData_vWord (by simpa using hidle), hread]

/-- Settles O42, one word each. -/
theorem vRegisterWordsReadBack : Obligations.VRegisterWordsReadBack := by
  intro s i w hidle
  have hscale : 0x104 + 8 * i.toNat = 0x100 + 8 * i.toNat + Half.scale.offset := by
    rw [Half.offset]; omega
  rw [hscale]
  exact ⟨vWord_readBack hidle i .mant w, vWord_readBack hidle i .scale w⟩

/-! ### The memories of scaled values -/

theorem readScaled_writeHalf (s : State) (a : Nat) (w : Word) (q : Half) :
    readScaled (writeHalf s a w q) a = withHalf (readScaled s a) w q := by
  cases q
  · simp [readScaled, writeHalf, withHalf, readByte_writeWord_outside]
  · simp [readScaled, writeHalf, withHalf, readByte_writeByte, readWord_writeByte_outside]

theorem OnlyMem.eq_of_evt {s t : State} (h : OnlyMem s t) (hevt : t.evt = s.evt) :
    t = { s with mem := t.mem } := by
  rw [OnlyMem, hevt] at h
  exact h

theorem onlyMem_writeHalf (s : State) (a : Nat) (w : Word) (q : Half) :
    OnlyMem s (writeHalf s a w q) := by
  cases q
  · exact onlyMem_writeWord s a w
  · exact onlyMem_writeByte s (a + 4) _

theorem hostWrite_entry {s : State} (hlegal : s.cfg.Legal) (hidle : s.fsm = .idle) {m : ScaledMem}
    (hm : m ≠ .dl) {e : Nat} (he : e < m.count s.cfg) (q : Half) (w : Word) :
    hostWrite s (BitVec.ofNat 24 (m.addr e + q.offset)) w = writeHalf s (m.addr e) w q := by
  rw [hostWrite, locate_entry hlegal m he q]
  cases m
  case dl => exact absurd rfl hm
  all_goals exact whenIdle_idle _ hidle

theorem readData_entry {s : State} (hlegal : s.cfg.Legal) (hidle : s.fsm = .idle) {m : ScaledMem}
    {e : Nat} (he : e < m.count s.cfg) (q : Half) :
    readData s (BitVec.ofNat 24 (m.addr e + q.offset)) = halfWord (readScaled s (m.addr e)) q := by
  rw [readData_idle _ hidle, locate_entry hlegal m he q, readLoc]

/-- A word of an entry written by the host: the one field, and the read-back. -/
theorem entry_readBack {s : State} (hlegal : s.cfg.Legal) (hidle : s.fsm = .idle) {m : ScaledMem}
    (hm : m ≠ .dl) {e : Nat} (he : e < m.count s.cfg) (q : Half) (w : Word) {stored : Nat → Prop}
    (hframe : KeepsMemBut stored s (writeHalf s (m.addr e) w q)) :
    ∃ t, hostWrite s (BitVec.ofNat 24 (m.addr e + q.offset)) w = t ∧ t = { s with mem := t.mem } ∧
      readScaled t (m.addr e) = withHalf (readScaled s (m.addr e)) w q ∧
      readData t (BitVec.ofNat 24 (m.addr e + q.offset)) =
        halfWord (withHalf (readScaled s (m.addr e)) w q) q ∧
      KeepsMemBut stored s t := by
  have hread := readScaled_writeHalf s (m.addr e) w q
  refine ⟨_, hostWrite_entry hlegal hidle hm he q w,
    (onlyMem_writeHalf ..).eq_of_evt (writeHalf_evt ..), hread, ?_, hframe⟩
  rw [readData_entry (by simpa using hlegal) (by simpa using hidle) (by simpa using he), hread]

theorem writeHalf_mant_frame (s : State) (a : Nat) (w : Word) :
    KeepsMemBut (fun x => a ≤ x ∧ x < a + 4) s (writeHalf s a w .mant) :=
  fun x hx => readByte_writeWord_outside s w (by omega)

theorem writeHalf_scale_frame (s : State) (a : Nat) (w : Word) :
    KeepsMemBut (fun x => x = a + 4) s (writeHalf s a w .scale) :=
  fun x hx => (readByte_writeByte s (a + 4) _ x).trans (if_neg hx)

/-- Settles O43, one word each of the memory whose base and size are given. -/
theorem scaledMemoryWordsReadBack : Obligations.ScaledMemoryWordsReadBack := by
  intro s base count e w hlegal hidle he hmem
  obtain ⟨m, hm, rfl, rfl⟩ : ∃ m : ScaledMem, m ≠ .dl ∧ base = m.base ∧ count = m.count s.cfg := by
    rcases hmem with ⟨rfl, rfl⟩ | ⟨rfl, rfl⟩ | ⟨rfl, rfl⟩
    exacts [⟨.stream, by simp, rfl, rfl⟩, ⟨.out, by simp, rfl, rfl⟩, ⟨.bin, by simp, rfl, rfl⟩]
  exact ⟨entry_readBack hlegal hidle hm he .mant w (writeHalf_mant_frame s (m.addr e) w),
    entry_readBack hlegal hidle hm he .scale w (writeHalf_scale_frame s (m.addr e) w)⟩

/-! ### RAW -/

/-- The entry number of `RAW[ch][n]` is within the region. -/
theorem entryIndex_lt {ch n C B : Nat} (hch : ch < C) (hn : n < B) : ch * B + n < C * B :=
  calc ch * B + n < (ch + 1) * B := by rw [Nat.succ_mul]; omega
    _ ≤ C * B := Nat.mul_le_mul_right B hch

/-- A code is a word's own code: it already has only `RAW_BITS` bits. -/
theorem rawCode_of_rawCode (cfg : Config) (w : Word) :
    rawCode cfg (BitVec.ofNat 32 (rawCode cfg w)) = rawCode cfg w := by
  have hle : rawCode cfg w ≤ w.toNat := Nat.mod_le _ _
  have hlt : rawCode cfg w < 2 ^ 32 := Nat.lt_of_le_of_lt hle w.isLt
  conv_lhs => rw [rawCode, BitVec.toNat_ofNat, Nat.mod_eq_of_lt hlt, rawCode, Nat.mod_mod]
  rfl

/-- A code written at an address is the code read there. -/
theorem rawCode_writeRaw (s : State) (a : Nat) (w : Word) :
    rawCode s.cfg (readWord (writeRaw s a w) a) = rawCode s.cfg w := by
  rw [writeRaw, readWord_writeWord_same, rawCode_of_rawCode]

theorem writeRaw_frame (s : State) (a : Nat) (w : Word) :
    KeepsMemBut (fun x => a ≤ x ∧ x < a + 4) s (writeRaw s a w) :=
  fun x hx => readByte_writeWord_outside s _ (by omega)

theorem hostWrite_raw {s : State} (hlegal : s.cfg.Legal) (hidle : s.fsm = .idle) {e : Nat}
    (he : e < s.cfg.C * s.cfg.B) (w : Word) :
    hostWrite s (BitVec.ofNat 24 (rawBase + 4 * e)) w = writeRaw s (rawBase + 4 * e) w := by
  rw [hostWrite, locate_rawEntry hlegal he, writeLoc, whenIdle_idle _ hidle]

/-- A RAW entry reads as its code, zero-extended. -/
theorem readData_raw {s : State} (hlegal : s.cfg.Legal) (hidle : s.fsm = .idle) {e : Nat}
    (he : e < s.cfg.C * s.cfg.B) :
    (readData s (BitVec.ofNat 24 (rawBase + 4 * e))).toNat =
      rawCode s.cfg (readWord s (rawBase + 4 * e)) := by
  have hle : rawCode s.cfg (readWord s (rawBase + 4 * e)) ≤ (readWord s (rawBase + 4 * e)).toNat :=
    Nat.mod_le _ _
  rw [readData_idle _ hidle, locate_rawEntry hlegal he, readLoc, BitVec.toNat_ofNat,
    Nat.mod_eq_of_lt (Nat.lt_of_le_of_lt hle (BitVec.isLt _))]

/-- The word of a RAW entry written by the host: its low bits, and the read-back. -/
theorem raw_readBack {s : State} (hlegal : s.cfg.Legal) (hidle : s.fsm = .idle) {e : Nat}
    (he : e < s.cfg.C * s.cfg.B) (w : Word) :
    ∃ t, hostWrite s (BitVec.ofNat 24 (rawBase + 4 * e)) w = t ∧ t = { s with mem := t.mem } ∧
      rawCode s.cfg (readWord t (rawBase + 4 * e)) = rawCode s.cfg w ∧
      (readData t (BitVec.ofNat 24 (rawBase + 4 * e))).toNat = rawCode s.cfg w ∧
      KeepsMemBut (fun x => rawBase + 4 * e ≤ x ∧ x < rawBase + 4 * e + 4) s t := by
  have hcode := rawCode_writeRaw s (rawBase + 4 * e) w
  refine ⟨_, hostWrite_raw hlegal hidle he w,
    (onlyMem_writeWord s _ _).eq_of_evt (writeRaw_evt ..), hcode, ?_, writeRaw_frame s _ w⟩
  rw [readData_raw (by simpa using hlegal) (by simpa using hidle) (by simpa using he), writeRaw_cfg,
    hcode]

/-- Settles O44, at the entry number of `RAW[ch][n]`. -/
theorem rawWriteKeepsTheLowBits : Obligations.RawWriteKeepsTheLowBits := by
  intro s ch n w hlegal hidle hch hn
  have he : ch * s.cfg.B + n < s.cfg.C * s.cfg.B := entryIndex_lt hch hn
  obtain ⟨t, hwrite, hmem, hcode, hread, hframe⟩ := raw_readBack hlegal hidle he w
  have hcfg : t.cfg = s.cfg := by rw [hmem]
  refine ⟨t, hwrite, hmem, ?_, hread, hframe⟩
  rw [readRaw, hcfg]
  exact hcode

/-! ### The read-only memories -/

/-- No write set holds a table (R240), so it reads at any time. -/
theorem readData_table {s : State} (hlegal : s.cfg.Legal) (t : Table) {e : Nat}
    (he : e < t.count s.cfg) (q : Half) :
    readData s (BitVec.ofNat 24 (t.base + 8 * e + q.offset)) = halfWord (t.at s.cfg e) q := by
  have hloc := locate_table hlegal t he q
  rw [readData_fixed (by simp [hloc, Writable]), hloc, readLoc]

theorem delayAt_lt (cfg : Config) (ch : Nat) : delayAt cfg ch < 2 ^ 32 := BitVec.isLt _

theorem readData_delay {s : State} (hlegal : s.cfg.Legal) {ch : Nat} (hch : ch < s.cfg.C) :
    (readData s (BitVec.ofNat 24 (delayBase + 4 * ch))).toNat = delayAt s.cfg ch := by
  have hloc := locate_delayEntry hlegal hch
  rw [readData_fixed (by simp [hloc, Writable]), hloc, readLoc, BitVec.toNat_ofNat,
    Nat.mod_eq_of_lt (delayAt_lt s.cfg ch)]

/-- Settles O47, region by region. -/
theorem readOnlyMemoriesRead : Obligations.ReadOnlyMemoriesRead := by
  intro s hlegal
  refine ⟨fun base count e x he hregion => ?_, fun ch hch => readData_delay hlegal hch⟩
  have htable (t : Table) (he : e < t.count s.cfg) := And.intro
    (readData_table hlegal t he .mant) (readData_table hlegal t he .scale)
  rcases hregion with ⟨rfl, rfl, rfl⟩ | ⟨rfl, rfl, rfl⟩ | ⟨rfl, rfl, rfl⟩ | ⟨rfl, rfl, hidle, rfl⟩
  · exact htable .coef he
  · exact htable .cos he
  · exact htable .sin he
  · exact ⟨readData_entry (m := .dl) hlegal hidle he .mant,
      readData_entry (m := .dl) hlegal hidle he .scale⟩

end Sys2Proof.Machine

/-! ## Memory never lists a byte outside the configured entries (R62, R79). -/

namespace Sys2Proof.Machine

/-! ### The bytes a configuration maps -/

/-- A storage byte of an entry the configuration has. -/
def MappedByte (cfg : Config) (a : Nat) : Prop :=
  RawBytes cfg a ∨ StreamBytes cfg a ∨ DlBytes cfg a ∨ OutBytes cfg a ∨ BinBytes cfg a

/-- Every cell of a memory is at a mapped byte. -/
def MappedCells (cfg : Config) (m : Memory) : Prop := ∀ c ∈ m, MappedByte cfg c.1

theorem memMapped_iff (s : State) : MemMapped s ↔ MappedCells s.cfg s.mem := Iff.rfl

/-- All five storage bytes of the scaled value at an address are mapped. -/
def MappedValue (cfg : Config) (a : Nat) : Prop := ∀ x, ScaledBytes a x → MappedByte cfg x

theorem mappedByte_raw {cfg : Config} {e x : Nat} (he : e < cfg.C * cfg.B)
    (hlo : rawBase + 4 * e ≤ x) (hhi : x < rawBase + 4 * e + 4) : MappedByte cfg x :=
  .inl ⟨e, he, hlo, hhi⟩

theorem mappedValue_streamAddr {cfg : Config} {ch n : Nat} (hch : ch < cfg.C) (hn : n < cfg.B) :
    MappedValue cfg (streamAddr cfg ch n) :=
  fun _ hx => .inr (.inl ⟨ch, n, hch, hn, hx⟩)

theorem mappedValue_dlAddr {cfg : Config} {ch j : Nat} (hch : ch < cfg.C) (hj : j < cfg.T) :
    MappedValue cfg (dlAddr cfg ch j) :=
  fun _ hx => .inr (.inr (.inl ⟨ch, j, hch, hj, hx⟩))

theorem mappedValue_outAddr {cfg : Config} {n : Nat} (hn : n < cfg.B) :
    MappedValue cfg (outAddr n) :=
  fun _ hx => .inr (.inr (.inr (.inl ⟨n, hn, hx⟩)))

theorem mappedValue_binReAddr {cfg : Config} {k : Nat} (hk : k < cfg.M / 2) :
    MappedValue cfg (binReAddr k) :=
  fun _ hx => .inr (.inr (.inr (.inr ⟨k, hk, .inl hx⟩)))

theorem mappedValue_binImAddr {cfg : Config} {k : Nat} (hk : k < cfg.M / 2) :
    MappedValue cfg (binImAddr k) :=
  fun _ hx => .inr (.inr (.inr (.inr ⟨k, hk, .inr hx⟩)))

/-- An entry number of a `C` by `B` region is that of a channel and an index. -/
theorem exists_entryIndex {e C B : Nat} (he : e < C * B) :
    ∃ ch n, ch < C ∧ n < B ∧ e = ch * B + n := by
  have hB : 0 < B := Nat.pos_of_mul_pos_left (Nat.zero_lt_of_lt he)
  exact ⟨e / B, e % B, (Nat.div_lt_iff_lt_mul hB).2 he, Nat.mod_lt e hB, (Nat.div_add_mod' e B).symm⟩

/-- Every value the host map of a memory reaches is an entry's (R62). -/
theorem mappedValue_addr {cfg : Config} (m : ScaledMem) {e : Nat} (he : e < m.count cfg) :
    MappedValue cfg (m.addr e) := by
  cases m
  case stream =>
    obtain ⟨ch, n, hch, hn, rfl⟩ := exists_entryIndex he
    exact mappedValue_streamAddr hch hn
  case dl =>
    obtain ⟨ch, j, hch, hj, rfl⟩ := exists_entryIndex he
    exact mappedValue_dlAddr hch hj
  case out => exact mappedValue_outAddr he
  case bin =>
    have hk : e / 2 < cfg.M / 2 := by rw [ScaledMem.count] at he; omega
    rcases Nat.mod_two_eq_zero_or_one e with heven | hodd
    · have haddr : ScaledMem.bin.addr e = binReAddr (e / 2) := by
        simp only [ScaledMem.addr, ScaledMem.base, binReAddr]; omega
      rw [haddr]
      exact mappedValue_binReAddr hk
    · have haddr : ScaledMem.bin.addr e = binImAddr (e / 2) := by
        simp only [ScaledMem.addr, ScaledMem.base, binImAddr]; omega
      rw [haddr]
      exact mappedValue_binImAddr hk

/-! ### Writes at mapped addresses -/

theorem MappedCells.filter {cfg : Config} {m : Memory} (p : Host.Cell → Bool)
    (h : MappedCells cfg m) : MappedCells cfg (m.filter p) :=
  fun c hc => h c (List.mem_of_mem_filter hc)

theorem mem_setCell {m : Memory} {a : Nat} {b : Byte} {c : Host.Cell} (h : c ∈ setCell m a b) :
    c = (a, b) ∨ c ∈ m := by
  unfold setCell at h
  split at h
  · exact .inr (List.mem_of_mem_filter h)
  · exact fst_mem_putCell h

section

variable {cfg : Config} {s : State} {a : Nat}

theorem mappedCells_writeByte (b : Byte) (h : MappedCells cfg s.mem) (ha : MappedByte cfg a) :
    MappedCells cfg (writeByte s a b).mem := by
  intro c hc
  rcases mem_setCell hc with rfl | hc
  · exact ha
  · exact h c hc

theorem mappedCells_writeWord (w : Word) (h : MappedCells cfg s.mem)
    (ha : ∀ x, a ≤ x → x < a + 4 → MappedByte cfg x) : MappedCells cfg (writeWord s a w).mem := by
  have h0 := mappedCells_writeByte (w.extractLsb' 0 8) h (ha a (by omega) (by omega))
  have h1 := mappedCells_writeByte (w.extractLsb' 8 8) h0 (ha (a + 1) (by omega) (by omega))
  have h2 := mappedCells_writeByte (w.extractLsb' 16 8) h1 (ha (a + 2) (by omega) (by omega))
  exact mappedCells_writeByte (w.extractLsb' 24 8) h2 (ha (a + 3) (by omega) (by omega))

theorem MappedValue.mant (ha : MappedValue cfg a) (x : Nat) (hlo : a ≤ x) (hhi : x < a + 4) :
    MappedByte cfg x :=
  ha x ⟨hlo, by omega⟩

theorem MappedValue.scale (ha : MappedValue cfg a) : MappedByte cfg (a + 4) :=
  ha (a + 4) ⟨by omega, by omega⟩

theorem mappedCells_writeScaled (x : Scaled) (h : MappedCells cfg s.mem)
    (ha : MappedValue cfg a) : MappedCells cfg (writeScaled s a x).mem :=
  mappedCells_writeByte _ (mappedCells_writeWord _ h ha.mant) ha.scale

theorem mappedCells_writeHalf (w : Word) (q : Half) (h : MappedCells cfg s.mem)
    (ha : MappedValue cfg a) : MappedCells cfg (writeHalf s a w q).mem := by
  cases q
  case mant => exact mappedCells_writeWord w h ha.mant
  case scale => exact mappedCells_writeByte _ h ha.scale

end

theorem memMapped_writeRaw {s : State} {e : Nat} (w : Word) (h : MemMapped s)
    (he : e < s.cfg.C * s.cfg.B) : MemMapped (writeRaw s (rawBase + 4 * e) w) := by
  rw [memMapped_iff, writeRaw_cfg]
  exact mappedCells_writeWord _ h fun _ hlo hhi => mappedByte_raw he hlo hhi

/-- A state with the same memory and configuration. -/
theorem MemMapped.congr {s t : State} (h : MemMapped s) (hcfg : t.cfg = s.cfg)
    (hmem : t.mem = s.mem) : MemMapped t := by
  rw [memMapped_iff, hcfg, hmem]; exact h

theorem OnlyResults.memMapped {s t : State} (h : OnlyResults s t) (ht : MappedCells s.cfg t.mem) :
    MemMapped t := by
  rw [memMapped_iff, h.cfg_eq]; exact ht

/-! ### The loops, whose indices are all in range -/

section

variable {cfg : Config} {t : State}

theorem mappedCells_convEntry {s : State} {ch n : Nat} (h : MappedCells s.cfg t.mem)
    (hch : ch < s.cfg.C) (hn : n < s.cfg.B) : MappedCells s.cfg (convEntry s ch t n).mem := by
  rw [convEntry, raise_mem]
  exact mappedCells_writeScaled _ h (mappedValue_streamAddr hch hn)

theorem mappedCells_writeOut (s : State) {i : Nat} (h : MappedCells cfg t.mem) (hi : i < cfg.B) :
    MappedCells cfg (writeOut s t i).mem := by
  rw [writeOut, raise_mem]
  exact mappedCells_writeScaled _ h (mappedValue_outAddr hi)

theorem mappedCells_writeBin (s : State) {k : Nat} (h : MappedCells cfg t.mem)
    (hk : k < cfg.M / 2) : MappedCells cfg (writeBin s t k).mem := by
  rw [writeBin, raise_mem]
  exact mappedCells_writeScaled _ (mappedCells_writeScaled _ h (mappedValue_binReAddr hk))
    (mappedValue_binImAddr hk)

end

theorem memMapped_convertAll {s : State} (h : MemMapped s) : MemMapped (convertAll s) := by
  refine (onlyMem_convertAll s).results.memMapped ?_
  unfold convertAll convChannel
  exact foldl_range_inv (fun t : State => MappedCells s.cfg t.mem) _ _ _ h fun _ _ hch ht =>
    foldl_range_inv (fun u : State => MappedCells s.cfg u.mem) _ _ _ ht fun _ _ hn hu =>
      mappedCells_convEntry hu hch hn

theorem memMapped_beamAll {s : State} (h : MemMapped s) : MemMapped (beamAll s) := by
  refine (onlyMem_beamAll s).results.memMapped ?_
  unfold beamAll
  exact foldl_range_inv (fun t : State => MappedCells s.cfg t.mem) _ _ _ h fun _ _ hi ht =>
    mappedCells_writeOut s ht hi

theorem memMapped_dftBins {s : State} (h : MemMapped s) : MemMapped (dftBins s) := by
  refine (onlyMem_dftBins s).results.memMapped ?_
  unfold dftBins
  exact foldl_range_inv (fun t : State => MappedCells s.cfg t.mem) _ _ _ h fun _ _ hk ht =>
    mappedCells_writeBin s ht hk

/-- The filter step stores at the cursor, so it needs the cursor in range. -/
theorem memMapped_firStep {s : State} {ch : Nat} (x : Scaled) (h : MemMapped s)
    (hcur : CursorInRange s) (hch : ch < s.cfg.C) : MemMapped (firStep s ch x).1 := by
  refine (onlyMem_firStep s ch x).results.memMapped ?_
  rw [firStep, raise_mem, pushDl]
  exact mappedCells_writeScaled x h (mappedValue_dlAddr hch hcur.2)

theorem memMapped_firStream {s : State} {n ch : Nat} (h : MemMapped s) (hcur : CursorInRange s)
    (hn : n < s.cfg.B) (hch : ch < s.cfg.C) : MemMapped (firStream n s ch) := by
  have hstep := memMapped_firStep (readScaled s (streamAddr s.cfg ch n)) h hcur hch
  rw [memMapped_iff, (onlyMem_firStep ..).results.cfg_eq] at hstep
  exact (onlyMem_firStream n s ch).results.memMapped
    (mappedCells_writeScaled _ hstep (mappedValue_streamAddr hch hn))

/-- What the passes of the bank keep: mapped memory, the cursor in range, the configuration. -/
structure FirMapped (cfg : Config) (s : State) : Prop where
  mapped : MemMapped s
  cursor : CursorInRange s
  cfg_eq : s.cfg = cfg

theorem firMapped_firStream {cfg : Config} {s : State} {n ch : Nat} (h : FirMapped cfg s)
    (hn : n < cfg.B) (hch : ch < cfg.C) : FirMapped cfg (firStream n s ch) := by
  obtain ⟨hmapped, hcur, rfl⟩ := h
  have honly := onlyMem_firStream n s ch
  exact ⟨memMapped_firStream hmapped hcur hn hch, honly.cursorInRange hcur, honly.results.cfg_eq⟩

theorem firMapped_cursorAdvance {cfg : Config} {s : State} (h : FirMapped cfg s) :
    FirMapped cfg (cursorAdvance s) :=
  ⟨h.mapped.congr rfl rfl, cursorInRange_cursorAdvance h.cursor, h.cfg_eq⟩

theorem firMapped_firSample {cfg : Config} {s : State} {n : Nat} (h : FirMapped cfg s)
    (hn : n < cfg.B) : FirMapped cfg (firSample s n) := by
  refine firMapped_cursorAdvance (foldl_range_inv (FirMapped cfg) _ _ _ h fun t ch hch ht => ?_)
  exact firMapped_firStream ht hn (h.cfg_eq ▸ hch)

theorem memMapped_firBank {s : State} (h : MemMapped s) (hcur : CursorInRange s) :
    MemMapped (firBank s) :=
  (foldl_range_inv (FirMapped s.cfg) _ _ _ ⟨h, hcur, rfl⟩ fun _ _ hn ht =>
    firMapped_firSample ht hn).mapped

theorem memMapped_transformAndDeliver {s : State} (h : MemMapped s) :
    MemMapped (transformAndDeliver s) := by
  unfold transformAndDeliver
  split
  · exact (memMapped_dftBins h).congr rfl rfl
  · exact h

theorem memMapped_blockProcess {s : State} (h : MemMapped s) (hcur : CursorInRange s) :
    MemMapped (blockProcess s) := by
  have hfir : MemMapped (firBank (convertAll s)) :=
    memMapped_firBank (memMapped_convertAll h) ((onlyMem_convertAll s).cursorInRange hcur)
  have hend := memMapped_transformAndDeliver (memMapped_beamAll hfir)
  exact hend.congr (countBlock_cfg _) (countBlock_mem _)

theorem memMapped_writeV {s : State} (r : Reg) (x : Scaled) (h : MemMapped s) :
    MemMapped (writeV s r x) := h.congr rfl rfl

theorem memMapped_complete {s : State} (h : MemMapped s) : MemMapped (complete s) :=
  h.congr rfl rfl

/-- The value check of FIRS keeps its channel in range (R95). -/
theorem memMapped_effect {s : State} {i : Instr} (h : MemMapped s) (hcur : CursorInRange s)
    (hi : i.wellFormed s.cfg = true) : MemMapped (effect s i) := by
  cases i
  case firs rd ra ch =>
    have hch : ch.toNat < s.cfg.C := of_decide_eq_true hi
    exact memMapped_writeV _ _ (memMapped_firStep _ h hcur hch)
  case firb => exact memMapped_firBank h hcur
  case dft => exact memMapped_dftBins h
  case beam => exact memMapped_beamAll h
  case conv => exact memMapped_convertAll h
  case block => exact memMapped_blockProcess h hcur
  all_goals exact h.congr rfl rfl

/-! ### The step of each agent -/

theorem exec_keeps_memMapped {i : Instr} {s t : State} (h : MemMapped s) (hcur : CursorInRange s)
    (ht : exec i s = .next t) : MemMapped t := by
  cases hi : i.wellFormed s.cfg
  · rw [exec_of_not_wellFormed hi] at ht
    cases ht
    exact h.congr rfl rfl
  · rw [exec_of_wellFormed hi] at ht
    cases ht
    exact memMapped_complete (memMapped_effect h hcur hi)

theorem sequencerTurn_keeps_memMapped {s t : State} (h : MemMapped s) (hcur : CursorInRange s)
    (ht : sequencerTurn s = .next t) : MemMapped t := by
  rcases sequencerTurn_cases s with ⟨-, e⟩ | ⟨_, _, -, -, e⟩ | ⟨_, -, -, e⟩ | ⟨-, e⟩ | ⟨-, -, -, e⟩ |
    ⟨-, -, e⟩ <;> rw [e] at ht
  case inr.inl => exact exec_keeps_memMapped h hcur ht
  all_goals cases ht
  · exact MappedCells.filter _ h
  · exact h.congr rfl rfl
  · exact memMapped_complete (memMapped_blockProcess h hcur)
  · exact h.congr rfl rfl
  · exact h

theorem memMapped_applyReset {s : State} (h : MemMapped s) : MemMapped (applyReset s) :=
  MappedCells.filter _ h

/-- The host reaches only entries the configuration has. -/
theorem entry_lt_of_locate {cfg : Config} {a : HostAddr} {m : ScaledMem} {e : Nat} {q : Half}
    (h : locate cfg a = .entry m e q) : e < m.count cfg := by
  rcases locate_cases cfg a with ⟨_, h', _⟩ | ⟨_, _, h', _⟩ | ⟨_, h', _⟩ | ⟨_, _, h', he, _⟩ |
    ⟨_, _, h', he, _⟩ | ⟨_, _, h', he, _⟩ | ⟨_, _, h', he, _⟩ | ⟨_, _, _, h', _⟩ | ⟨_, h', _⟩ |
    ⟨h', _⟩ <;> rw [h] at h' <;> cases h' <;> exact he

theorem writeCmd_keeps_memMapped {s : State} (w : Word) (h : MemMapped s) :
    MemMapped (writeCmd s w) := by
  rcases writeCmd_cases s w with ⟨-, -, -, e⟩ | ⟨-, -, -, e⟩ | ⟨-, e⟩ <;> rw [e] <;>
    exact h.congr rfl rfl

theorem writeCtrl_keeps_memMapped {s : State} (w : Word) (h : MemMapped s) :
    MemMapped (writeCtrl s w) := by
  rcases writeCtrl_cases s w with ⟨-, e⟩ | ⟨-, e⟩ <;> rw [e]
  · exact memMapped_applyReset h
  · exact h.congr rfl rfl

theorem hostWrite_keeps_memMapped {s : State} (a : HostAddr) (w : Word) (h : MemMapped s) :
    MemMapped (hostWrite s a w) := by
  rcases hostWrite_cases s a w with ⟨-, e⟩ | ⟨-, e⟩ | ⟨-, e⟩ | e | ⟨-, e⟩ | ⟨-, _, _, e⟩ |
    ⟨-, _, he, e⟩ | ⟨-, m, _, q, -, hloc, e⟩ <;> rw [e]
  · exact writeCtrl_keeps_memMapped w h
  · exact h.congr rfl rfl
  · exact writeCmd_keeps_memMapped w h
  · exact h.congr rfl rfl
  · exact h.congr rfl rfl
  · exact h.congr rfl rfl
  · exact memMapped_writeRaw w h he
  · rw [memMapped_iff, writeHalf_cfg]
    exact mappedCells_writeHalf w q h (mappedValue_addr m (entry_lt_of_locate hloc))

theorem producerWrite_keeps_memMapped {s : State} (e : Nat) (w : Word) (h : MemMapped s) :
    MemMapped (producerWrite s e w) := by
  rcases producerWrite_cases s e w with ⟨-, he, heq⟩ | ⟨-, heq⟩ <;> rw [heq]
  · exact memMapped_writeRaw w h he
  · exact h.congr rfl rfl

theorem producerDone_keeps_memMapped {s : State} (h : MemMapped s) :
    MemMapped (producerDone s) := by
  rcases producerDone_cases s with ⟨-, e⟩ | e <;> rw [e] <;> exact h.congr rfl rfl

theorem takeEvent_keeps_memMapped {e : Event} {s t : State} (h : MemMapped s)
    (hcur : CursorInRange s) (ht : takeEvent e s = .next t) : MemMapped t := by
  cases e
  case sequencer => exact sequencerTurn_keeps_memMapped h hcur ht
  all_goals cases ht
  case hostWrite a w => exact hostWrite_keeps_memMapped a w h
  case hostRead a => exact h.congr rfl rfl
  case rawWrite i w => exact producerWrite_keeps_memMapped i w h
  case blkDone => exact producerDone_keeps_memMapped h
  case hardReset => exact memMapped_applyReset h

/-- Settles O37, by the agent whose step it is; of the invariant only the cursor's range counts. -/
theorem stepKeepsMemoryWithinMappedEntries : Obligations.StepKeepsMemoryWithinMappedEntries := by
  refine ⟨fun s t hinv h ht => ?_, fun c hc => nomatch hc⟩
  rcases step_cases s with ⟨-, e⟩ | ⟨ev, rest, -, e⟩ <;> rw [e] at ht
  · exact sequencerTurn_keeps_memMapped h hinv.cursorInRange ht
  · have hrest : MemMapped { s with schedule := rest } := h.congr rfl rfl
    exact takeEvent_keeps_memMapped hrest (hinv.cursorInRange.congr rfl rfl) ht

end Sys2Proof.Machine

/-! ## Host transactions that reach no operand: dropped data writes (R69), read-only and unmapped
addresses (R64, R65), reads (R68), and every other agent's step while the core is busy. -/

namespace Sys2Proof.Machine

/-! ### Addresses by what a write there does -/

/-- The locations that take data writes: V registers and the memories but DL (R65). -/
def Loc.TakesData : Loc → Prop
  | .v _ _ => True
  | .raw _ => True
  | .entry m _ _ => m ≠ .dl
  | _ => False

/-- The locations that take no write at all: the read-only ones, and none (R64, R65). -/
def Loc.TakesNoWrite : Loc → Prop
  | .reg r => r ≠ .ctrl ∧ r ≠ .status ∧ r ≠ .cmd
  | .entry m _ _ => m = .dl
  | .table _ _ _ => True
  | .delay _ => True
  | .unmapped => True
  | _ => False

theorem whenIdle_busy {s : State} (t : State) (h : s.fsm ≠ .idle) :
    whenIdle s t = s.setFlags Flag.hzd.mask := by
  rcases whenIdle_cases s t with ⟨-, e⟩ | ⟨hidle, -⟩
  · exact e
  · exact absurd hidle h

theorem writeLoc_takesData_busy {s : State} {l : Loc} (w : Word) (h : l.TakesData)
    (hbusy : s.fsm ≠ .idle) : writeLoc s w l = s.setFlags Flag.hzd.mask := by
  cases l with
  | v r q => exact whenIdle_busy _ hbusy
  | raw e => exact whenIdle_busy _ hbusy
  | entry m e q =>
    cases m with
    | dl => exact absurd rfl h
    | stream | out | bin => exact whenIdle_busy _ hbusy
  | reg | table | delay | unmapped => exact h.elim

theorem writeLoc_takesNoWrite {l : Loc} (s : State) (w : Word) (h : l.TakesNoWrite) :
    writeLoc s w l = s.setFlags Flag.addr.mask := by
  cases l with
  | reg r =>
    obtain ⟨hctrl, hstatus, hcmd⟩ := h
    cases r
    case ctrl => exact absurd rfl hctrl
    case status => exact absurd rfl hstatus
    case cmd => exact absurd rfl hcmd
    all_goals rfl
  | entry m e q => cases h; rfl
  | table | delay | unmapped => rfl
  | v | raw => exact h.elim

theorem scaledLoc_of_lt {n off : Nat} (f : Nat → Half → Loc) (h : off < 8 * n) :
    scaledLoc n off f = f (off / 8) (halfAt off) := by
  rw [scaledLoc, if_pos (by omega)]

theorem scaledLoc_of_le {n off : Nat} (f : Nat → Half → Loc) (h : 8 * n ≤ off) :
    scaledLoc n off f = .unmapped := by
  rw [scaledLoc, if_neg (by omega)]

theorem wordLoc_of_lt {n off : Nat} (f : Nat → Loc) (h : off < 4 * n) :
    wordLoc n off f = f (off / 4) := by
  rw [wordLoc, if_pos (by omega)]

theorem wordLoc_of_le {n off : Nat} (f : Nat → Loc) (h : 4 * n ≤ off) :
    wordLoc n off f = .unmapped := by
  rw [wordLoc, if_neg (by omega)]

/-- No region of a legal configuration runs over its range, so each address of a writable range
reaches an entry of its own region. -/
theorem locate_dataWritable {cfg : Config} {a : HostAddr} (hlegal : cfg.Legal)
    (h : DataWritable cfg a) : (locate cfg a).TakesData := by
  obtain ⟨-, ⟨-, hB⟩, hCB, -, -, ⟨-, hM⟩, -⟩ := hlegal
  rcases h with ⟨hlo, hhi⟩ | ⟨hlo, hhi⟩ | ⟨hlo, hhi⟩ | ⟨hlo, hhi⟩ | ⟨hlo, hhi⟩
  · rw [locate_v cfg a hlo hhi]
    trivial
  · rw [locate_raw cfg a hlo (by omega), wordLoc_of_lt _ (by omega)]
    trivial
  · rw [locate_stream cfg a hlo (by omega), scaledLoc_of_lt _ (by omega)]
    exact nofun
  · rw [locate_out cfg a hlo (by omega), scaledLoc_of_lt _ (by omega)]
    exact nofun
  · rw [locate_bin cfg a hlo (by omega), scaledLoc_of_lt _ (by omega)]
    exact nofun

/-- The control page but for CTRL, STATUS and CMD, words 1 to 3, is read-only (R61, R65). -/
theorem ctlRegs_readOnly : ∀ k < 14, k = 0 ∨ 4 ≤ k →
    ∃ r ∈ ctlRegs, ctlRegs[k]? = some r ∧ (Loc.reg r).TakesNoWrite := by
  unfold Loc.TakesNoWrite
  decide

theorem locate_readOnly {cfg : Config} {a : HostAddr} (hlegal : cfg.Legal) (h : ReadOnly cfg a) :
    (locate cfg a).TakesNoWrite := by
  have hctl (hlt : a.toNat < 0x38) (hk : a.toNat / 4 = 0 ∨ 4 ≤ a.toNat / 4) :
      (locate cfg a).TakesNoWrite := by
    obtain ⟨r, -, hr, hro⟩ := ctlRegs_readOnly (a.toNat / 4) (by omega) hk
    rw [locate_ctl cfg a (by omega) hr]
    exact hro
  obtain ⟨⟨-, hC⟩, -, -, ⟨-, hT⟩, hCT, -, ⟨-, hL⟩, -⟩ := hlegal
  rcases h with hlt | ⟨hlo, hhi⟩ | ⟨hlo, hhi⟩ | ⟨hlo, hhi⟩ | ⟨hlo, hhi⟩ | ⟨hlo, hhi⟩ | ⟨hlo, hhi⟩
  · exact hctl (by omega) (by omega)
  · exact hctl hhi (by omega)
  · rw [locate_dl cfg a hlo (by omega), scaledLoc_of_lt _ (by omega)]
    rfl
  · rw [locate_coef cfg a hlo (by omega), scaledLoc_of_lt _ (by omega)]
    trivial
  · rw [locate_cos cfg a hlo (by omega), scaledLoc_of_lt _ (by omega)]
    trivial
  · rw [locate_sin cfg a hlo (by omega), scaledLoc_of_lt _ (by omega)]
    trivial
  · rw [locate_delay cfg a hlo (by omega), wordLoc_of_lt _ (by omega)]
    trivial

/-- Above the last entry of its region, or in a hole of the map, an address reaches nothing. -/
theorem locate_unmapped {cfg : Config} {a : HostAddr} (h : Unmapped cfg a) :
    locate cfg a = .unmapped := by
  obtain ⟨hdata, hro, hctl⟩ := h
  have hregion : (a.toNat < 0x100000 ∨ 0xA00000 ≤ a.toNat) ∨
      (0x100000 ≤ a.toNat ∧ a.toNat < 0x200000) ∨ (0x200000 ≤ a.toNat ∧ a.toNat < 0x300000) ∨
      (0x300000 ≤ a.toNat ∧ a.toNat < 0x400000) ∨ (0x400000 ≤ a.toNat ∧ a.toNat < 0x500000) ∨
      (0x500000 ≤ a.toNat ∧ a.toNat < 0x600000) ∨ (0x600000 ≤ a.toNat ∧ a.toNat < 0x700000) ∨
      (0x700000 ≤ a.toNat ∧ a.toNat < 0x800000) ∨ (0x800000 ≤ a.toNat ∧ a.toNat < 0x900000) ∨
      (0x900000 ≤ a.toNat ∧ a.toNat < 0xA00000) := by omega
  rcases hregion with hout | ⟨hlo, hhi⟩ | ⟨hlo, hhi⟩ | ⟨hlo, hhi⟩ | ⟨hlo, hhi⟩ | ⟨hlo, hhi⟩ |
    ⟨hlo, hhi⟩ | ⟨hlo, hhi⟩ | ⟨hlo, hhi⟩ | ⟨hlo, hhi⟩
  · have hid : ¬ a.toNat < 0x4 := fun hlt => hro (.inl hlt)
    have hregs : ¬(0x4 ≤ a.toNat ∧ a.toNat < 0x10) := hctl
    have hcfg : ¬(0x10 ≤ a.toNat ∧ a.toNat < 0x38) := fun hr => hro (.inr (.inl hr))
    have hv : ¬(0x100 ≤ a.toNat ∧ a.toNat < 0x180) := fun hr => hdata (.inl hr)
    exact locate_hole cfg a (by omega)
  · rw [locate_raw cfg a hlo hhi]
    exact wordLoc_of_le _ (Nat.le_of_not_lt fun hlt => hdata (.inr (.inl ⟨hlo, by omega⟩)))
  · rw [locate_stream cfg a hlo hhi]
    exact scaledLoc_of_le _
      (Nat.le_of_not_lt fun hlt => hdata (.inr (.inr (.inl ⟨hlo, by omega⟩))))
  · rw [locate_dl cfg a hlo hhi]
    exact scaledLoc_of_le _
      (Nat.le_of_not_lt fun hlt => hro (.inr (.inr (.inl ⟨hlo, by omega⟩))))
  · rw [locate_out cfg a hlo hhi]
    exact scaledLoc_of_le _
      (Nat.le_of_not_lt fun hlt => hdata (.inr (.inr (.inr (.inl ⟨hlo, by omega⟩)))))
  · rw [locate_bin cfg a hlo hhi]
    exact scaledLoc_of_le _
      (Nat.le_of_not_lt fun hlt => hdata (.inr (.inr (.inr (.inr ⟨hlo, by omega⟩)))))
  · rw [locate_coef cfg a hlo hhi]
    exact scaledLoc_of_le _
      (Nat.le_of_not_lt fun hlt => hro (.inr (.inr (.inr (.inl ⟨hlo, by omega⟩)))))
  · rw [locate_cos cfg a hlo hhi]
    exact scaledLoc_of_le _
      (Nat.le_of_not_lt fun hlt => hro (.inr (.inr (.inr (.inr (.inl ⟨hlo, by omega⟩))))))
  · rw [locate_sin cfg a hlo hhi]
    exact scaledLoc_of_le _
      (Nat.le_of_not_lt fun hlt => hro (.inr (.inr (.inr (.inr (.inr (.inl ⟨hlo, by omega⟩)))))))
  · rw [locate_delay cfg a hlo hhi]
    exact wordLoc_of_le _
      (Nat.le_of_not_lt fun hlt => hro (.inr (.inr (.inr (.inr (.inr (.inr ⟨hlo, by omega⟩)))))))

/-- Settles O40: each such address reaches a location that takes data writes. -/
theorem dataWriteWhileBusyIsDropped : Obligations.DataWriteWhileBusyIsDropped :=
  fun _ _ w hlegal hbusy ha => writeLoc_takesData_busy w (locate_dataWritable hlegal ha) hbusy

/-- Settles O41: each such address reaches a location that takes no write, and an unmapped address
reaches nothing, which reads 0 and is in no write set. -/
theorem readOnlyAndUnmappedAddresses : Obligations.ReadOnlyAndUnmappedAddresses := by
  intro s a w hlegal
  refine ⟨fun ha => ?_, fun ha => ?_⟩
  · have hloc : (locate s.cfg a).TakesNoWrite := by
      rcases ha with ha | ha
      · exact locate_readOnly hlegal ha
      · rw [locate_unmapped ha]
        trivial
    exact writeLoc_takesNoWrite s w hloc
  · have hloc : locate s.cfg a = .unmapped := locate_unmapped ha
    rw [readData_fixed (by simp [hloc, Writable]), hloc, readLoc]

/-! ### While the core is busy (R69, R192, R193, R198) -/

/-- Only CTRL's enables, STATUS flags and the model's own read log and counter differ: no operand,
no result, and nothing of the running operation. -/
def KeepsOperation (s t : State) : Prop :=
  t = { s with auto := t.auto, ie := t.ie, iee := t.iee, flags := t.flags, readLog := t.readLog,
               fresh := t.fresh }

theorem keepsOperation_setFlags (s : State) (fs : Flags) : KeepsOperation s (s.setFlags fs) := rfl

theorem keepsOperation_writeCtrl (s : State) {w : Word} (hw : w.getLsbD 31 = false) :
    KeepsOperation s (writeCtrl s w) := by
  rcases writeCtrl_cases s w with ⟨hw', -⟩ | ⟨-, e⟩
  · cases hw.symm.trans hw'
  · rw [e]; rfl

theorem keepsOperation_writeCmd {s : State} (w : Word) (hbusy : s.fsm ≠ .idle) :
    KeepsOperation s (writeCmd s w) := by
  rcases writeCmd_cases s w with ⟨hidle, -⟩ | ⟨hidle, -⟩ | ⟨-, e⟩
  · exact absurd hidle hbusy
  · exact absurd hidle hbusy
  · rw [e]; exact keepsOperation_setFlags s _

theorem keepsOperation_hostWrite {s : State} {a : HostAddr} {w : Word} (hbusy : s.fsm ≠ .idle)
    (hreset : ¬(a.toNat / 4 = 1 ∧ w.getLsbD 31 = true)) : KeepsOperation s (hostWrite s a w) := by
  rcases hostWrite_cases s a w with ⟨ha, e⟩ | ⟨-, e⟩ | ⟨-, e⟩ | e | ⟨-, e⟩ | ⟨hidle, -⟩ |
    ⟨hidle, -⟩ | ⟨hidle, -⟩
  · have hw : w.getLsbD 31 = false := Bool.eq_false_iff.2 fun hw => hreset ⟨ha, hw⟩
    rw [e]; exact keepsOperation_writeCtrl s hw
  · rw [e]; rfl
  · rw [e]; exact keepsOperation_writeCmd w hbusy
  · rw [e]; exact keepsOperation_setFlags s _
  · rw [e]; exact keepsOperation_setFlags s _
  all_goals exact absurd hidle hbusy

/-- The producer is heard only while `blk_req = 1`, which needs IDLE (R191). -/
theorem keepsOperation_producerWrite {s : State} (e : Nat) (w : Word) (hbusy : s.fsm ≠ .idle) :
    KeepsOperation s (producerWrite s e w) := by
  rcases producerWrite_cases s e w with ⟨hreq, -⟩ | ⟨-, heq⟩
  · exact absurd (fsm_idle_of_blkReq hreq) hbusy
  · rw [heq]; exact keepsOperation_setFlags s _

theorem keepsOperation_producerDone {s : State} (hbusy : s.fsm ≠ .idle) :
    KeepsOperation s (producerDone s) := by
  rcases producerDone_cases s with ⟨hreq, -⟩ | heq
  · exact absurd (fsm_idle_of_blkReq hreq) hbusy
  · rw [heq]; exact keepsOperation_setFlags s _

/-- The event resets the core (R230). -/
def Event.Resets : Event → Prop
  | .hardReset => True
  | .hostWrite a w => a.toNat / 4 = 1 ∧ w.getLsbD 31 = true
  | _ => False

theorem resetNext_of_resets {s : State} {e : Event} {rest : List Event}
    (hsched : s.schedule = e :: rest) (h : e.Resets) : ResetNext s := by
  cases e with
  | hardReset => exact .inl ⟨rest, hsched⟩
  | hostWrite a w => exact .inr ⟨a, w, rest, hsched, h.1, h.2⟩
  | hostRead | rawWrite | blkDone | sequencer => exact h.elim

theorem takeEvent_keepsOperation {s : State} {e : Event} (hbusy : s.fsm ≠ .idle)
    (hseq : e ≠ .sequencer) (hreset : ¬ e.Resets) :
    ∃ t, takeEvent e s = .next t ∧ KeepsOperation s t := by
  cases e with
  | hostWrite a w => exact ⟨_, rfl, keepsOperation_hostWrite hbusy hreset⟩
  | hostRead a => exact ⟨_, rfl, rfl⟩
  | rawWrite i w => exact ⟨_, rfl, keepsOperation_producerWrite i w hbusy⟩
  | blkDone => exact ⟨_, rfl, keepsOperation_producerDone hbusy⟩
  | hardReset => exact absurd trivial hreset
  | sequencer => exact absurd rfl hseq

theorem step_of_schedule {s : State} {e : Event} {rest : List Event}
    (h : s.schedule = e :: rest) : step s = takeEvent e { s with schedule := rest } := by
  rw [step, h]

/-- Settles O58, by the agent whose step it is. -/
theorem onlyCompletionChangesResultsWhileBusy :
    Obligations.OnlyCompletionChangesResultsWhileBusy := by
  intro s e rest hbusy hsched hseq hreset
  obtain ⟨t, ht, hkeeps⟩ := takeEvent_keepsOperation (s := { s with schedule := rest }) hbusy hseq
    fun h => hreset (resetNext_of_resets hsched h)
  refine ⟨t, (step_of_schedule hsched).trans ht, ?_⟩
  rw [hkeeps]
  exact ⟨rfl, rfl, rfl, rfl, rfl, rfl, rfl, rfl, rfl, rfl, rfl, rfl⟩

/-! ### Reads (R68) -/

/-- The word a read returns does not depend on the steps still to come. -/
theorem readData_schedule (s : State) (a : HostAddr) (rest : List Event) :
    readData { s with schedule := rest } a = readData s a := rfl

/-- Settles O45: only the read log and the counter move, the log by the word read. -/
theorem hostReadHasNoSideEffect : Obligations.HostReadHasNoSideEffect := by
  intro s a rest hsched
  refine ⟨hostRead { s with schedule := rest } a, step_of_schedule hsched, rfl, ?_⟩
  rw [hostRead_readLog, readData_schedule]

end Sys2Proof.Machine

/-! ## Command words (R91, R92, R97): the fields of a word, the rows of the opcode map, and that the
decoder and the encoder are inverse. -/

namespace Sys2Proof

/-! ### Fields (R91) -/

/-- The layout all formats share: the opcode, two register fields and the low half, which each format
divides in its own way (R92). `layout_fields` ties it to the decoder's fields, `append_assoc_formatR`
and `append_assoc_formatD` to the encoder. -/
def layout (opc : BitVec 8) (rd ra : Reg) (low : BitVec 16) : Word := opc ++ rd ++ ra ++ low

section
variable (opc : BitVec 8) (rd ra : Reg) (low : BitVec 16)

theorem extractLsb'_layout_high {start len : Nat} (h : 16 ≤ start) :
    (layout opc rd ra low).extractLsb' start len = (opc ++ rd ++ ra).extractLsb' (start - 16) len :=
  BitVec.extractLsb'_append_eq_of_le h

@[simp] theorem opcOf_layout : opcOf (layout opc rd ra low) = opc := by
  rw [opcOf, extractLsb'_layout_high _ _ _ _ (by decide), BitVec.append_assoc]
  exact BitVec.extractLsb'_append_eq_left

@[simp] theorem rdOf_layout : rdOf (layout opc rd ra low) = rd := by
  rw [rdOf, extractLsb'_layout_high _ _ _ _ (by decide),
    BitVec.extractLsb'_append_eq_of_le (by decide)]
  exact BitVec.extractLsb'_append_eq_right

@[simp] theorem raOf_layout : raOf (layout opc rd ra low) = ra := by
  rw [raOf, extractLsb'_layout_high _ _ _ _ (by decide)]
  exact BitVec.extractLsb'_append_eq_right

@[simp] theorem chOf_layout : chOf (layout opc rd ra low) = low :=
  BitVec.extractLsb'_append_eq_right

end

/-- The fields of a word make up the word. -/
theorem layout_fields (w : Word) : layout (opcOf w) (rdOf w) (raOf w) (chOf w) = w := by
  have hrd : opcOf w ++ rdOf w = w.extractLsb' 20 12 :=
    BitVec.extractLsb'_append_extractLsb'_eq_extractLsb' rfl
  have hra : opcOf w ++ rdOf w ++ raOf w = w.extractLsb' 16 16 := by
    rw [hrd]
    exact BitVec.extractLsb'_append_extractLsb'_eq_extractLsb' rfl
  rw [layout, hra]
  exact BitVec.extractLsb'_append_extractLsb' (w := 16) (len := 16)

theorem word_eq_of_fields {w u : Word} (hopc : opcOf w = opcOf u) (hrd : rdOf w = rdOf u)
    (hra : raOf w = raOf u) (hch : chOf w = chOf u) : w = u := by
  rw [← layout_fields w, ← layout_fields u, hopc, hrd, hra, hch]

theorem opcOf_and (w u : Word) : opcOf (w &&& u) = opcOf w &&& opcOf u := BitVec.extractLsb'_and

theorem rdOf_and (w u : Word) : rdOf (w &&& u) = rdOf w &&& rdOf u := BitVec.extractLsb'_and

theorem raOf_and (w u : Word) : raOf (w &&& u) = raOf w &&& raOf u := BitVec.extractLsb'_and

theorem chOf_and (w u : Word) : chOf (w &&& u) = chOf w &&& chOf u := BitVec.extractLsb'_and

theorem opcOf_toNat (w : Word) : (opcOf w).toNat = w.toNat / 2 ^ 24 := by
  rw [opcOf, BitVec.extractLsb'_toNat, Nat.shiftRight_eq_div_pow]
  omega

theorem chOf_toNat (w : Word) : (chOf w).toNat = w.toNat % 2 ^ 16 := by
  rw [chOf, BitVec.extractLsb'_toNat, Nat.shiftRight_zero]

/-! ### The low half, by format (R92) -/

theorem rbOf_eq_extract_chOf (w : Word) : rbOf w = (chOf w).extractLsb' 12 4 :=
  (BitVec.extractLsb'_extractLsb'_of_le (by decide)).symm

theorem dOf_eq_extract_chOf (w : Word) : dOf w = (chOf w).extractLsb' 0 7 :=
  (BitVec.extractLsb'_extractLsb'_of_le (by decide)).symm

@[simp] theorem rbOf_layout (opc : BitVec 8) (rd ra rb : Reg) :
    rbOf (layout opc rd ra (rb ++ 0#12)) = rb := by
  rw [rbOf_eq_extract_chOf, chOf_layout]
  exact BitVec.extractLsb'_append_eq_left

@[simp] theorem dOf_layout (opc : BitVec 8) (rd ra : Reg) (d : BitVec 7) :
    dOf (layout opc rd ra (0#9 ++ d)) = d := by
  rw [dOf_eq_extract_chOf, chOf_layout]
  exact BitVec.extractLsb'_append_eq_right

/-- The bits that a mask covers in full and that do not show under it are 0. -/
theorem extractLsb'_eq_zero_of_and {low m : BitVec 16} {start len : Nat}
    (hm : m.extractLsb' start len = BitVec.allOnes len) (h : low &&& m = 0) :
    low.extractLsb' start len = 0#len :=
  calc low.extractLsb' start len
      = (low &&& m).extractLsb' start len := by
        rw [BitVec.extractLsb'_and, hm, BitVec.and_allOnes]
    _ = 0#len := by
        rw [h]
        exact BitVec.extractLsb'_zero

/-- Format R: `RB` above twelve reserved bits. -/
theorem rbOf_append_reserved {w : Word} (h : chOf w &&& 0x0FFF = 0) : rbOf w ++ 0#12 = chOf w := by
  have hres : (chOf w).extractLsb' 0 12 = 0#12 := extractLsb'_eq_zero_of_and (by decide) h
  rw [rbOf_eq_extract_chOf, ← hres]
  exact BitVec.extractLsb'_append_extractLsb'

/-- Format D: nine reserved bits above `D`. -/
theorem reserved_append_dOf {w : Word} (h : chOf w &&& 0xFF80 = 0) : 0#9 ++ dOf w = chOf w := by
  have hres : (chOf w).extractLsb' 7 9 = 0#9 := extractLsb'_eq_zero_of_and (by decide) h
  rw [dOf_eq_extract_chOf, ← hres]
  exact BitVec.extractLsb'_append_extractLsb'

/-- Format R keeps its reserved bits 0. -/
theorem append_reserved_and (rb : Reg) : rb ++ 0#12 &&& 0x0FFF#16 = 0 :=
  (BitVec.and_append (x₂ := 0#4) (y₂ := 0xFFF#12)).trans (by simp)

/-- Format D keeps its reserved bits 0. -/
theorem reserved_append_and (d : BitVec 7) : 0#9 ++ d &&& 0xFF80#16 = 0 :=
  (BitVec.and_append (x₂ := 0x1FF#9) (y₂ := 0#7)).trans (by simp)

/-! ### The opcode map as a table of rows (R97) -/

/-- A row of R97: its mask, its match, and the command it reads from a word. -/
structure Row where
  mask : Word
  pattern : Word
  command : Word → Instr

/-- A row of format N, which masks every bit. -/
def Row.bare (opc : BitVec 8) (i : Instr) : Row :=
  ⟨layout 0xFF 0xF 0xF 0xFFFF, layout opc 0 0 0, fun _ => i⟩

/-- A row with register fields, which masks the opcode and the bits `m` of the low half. -/
def Row.operands (opc : BitVec 8) (m : BitVec 16) (command : Word → Instr) : Row :=
  ⟨layout 0xFF 0 0 m, layout opc 0 0 0, command⟩

/-- The rows of R97; `decodeRow_eq_find` and `opcodeRows_eq_map` tie them to the model. -/
def rows : List Row :=
  [.bare 0x00 .nop,
   .operands 0x01 0x0FFF fun w => .vadd (rdOf w) (raOf w) (rbOf w),
   .operands 0x02 0x0FFF fun w => .vmul (rdOf w) (raOf w) (rbOf w),
   .operands 0x03 0x0FFF fun w => .vmac (rdOf w) (raOf w) (rbOf w),
   .operands 0x04 0xFF80 fun w => .vfromi (rdOf w) (raOf w) (dOf w),
   .operands 0x05 0xFFFF fun w => .vtoi (rdOf w) (raOf w),
   .operands 0x10 0x0000 fun w => .firs (rdOf w) (raOf w) (chOf w),
   .bare 0x11 .firadv, .bare 0x12 .firb, .bare 0x20 .dft, .bare 0x30 .beam,
   .bare 0x40 .conv, .bare 0x41 .deliver, .bare 0x42 .block]

/-- The word matches the row. -/
def Row.fits (w : Word) (r : Row) : Bool := rowMatches w r.mask r.pattern

theorem find_map_cons {α β : Type} (p : α → Bool) (f : α → β) (a : α) (l : List α) :
    ((a :: l).find? p).map f = if p a = true then some (f a) else (l.find? p).map f := by
  rw [List.find?_cons]
  cases p a <;> rfl

/-- The decoder takes the first row that matches. -/
theorem decodeRow_eq_find (w : Word) :
    decodeRow w = (rows.find? (Row.fits w)).map (·.command w) := by
  simp only [rows, find_map_cons]
  rfl

theorem opcodeRows_eq_map : Machine.opcodeRows = rows.map fun r => (r.mask, r.pattern) := rfl

/-- The decoder finds no command exactly in the words that no row of R97 matches. -/
theorem decodeRow_eq_none_iff {w : Word} :
    decodeRow w = none ↔ ∀ r ∈ Machine.opcodeRows, w &&& r.1 ≠ r.2 := by
  rw [decodeRow_eq_find, Option.map_eq_none_iff, List.find?_eq_none, opcodeRows_eq_map,
    List.forall_mem_map]
  simp only [Row.fits, rowMatches, beq_iff_eq, ne_eq]

/-! ### At most one row matches -/

/-- Every row masks the whole opcode, so that a word it matches has its opcode. -/
theorem opcOf_of_fits {r : Row} {w : Word} (hr : r ∈ rows) (h : r.fits w = true) :
    opcOf w = opcOf r.pattern := by
  have hones : ∀ r ∈ rows, opcOf r.mask = BitVec.allOnes 8 := by decide
  rw [← eq_of_beq h, opcOf_and, hones r hr, BitVec.and_allOnes]

/-- No two rows have one opcode. -/
theorem row_eq_of_fits {r r' : Row} {w : Word} (hr : r ∈ rows) (hr' : r' ∈ rows)
    (h : r.fits w = true) (h' : r'.fits w = true) : r = r' := by
  have hnodup : (rows.map fun r => opcOf r.pattern).Nodup := by decide
  exact List.inj_on_of_nodup_map hnodup hr hr'
    ((opcOf_of_fits hr h).symm.trans (opcOf_of_fits hr' h'))

/-- The order of the rows does not matter: the decoder answers what the row that matches reads. -/
theorem decodeRow_eq_some_iff_row {w : Word} {i : Instr} :
    decodeRow w = some i ↔ ∃ r ∈ rows, r.fits w = true ∧ r.command w = i := by
  rw [decodeRow_eq_find, Option.map_eq_some_iff]
  constructor
  · rintro ⟨r, hf, hi⟩
    exact ⟨r, List.mem_of_find?_eq_some hf, List.find?_some hf, hi⟩
  · rintro ⟨r, hr, hfit, hi⟩
    obtain ⟨r', hf⟩ := Option.isSome_iff_exists.1 (List.find?_isSome.2 ⟨r, hr, hfit⟩)
    have hrow : r' = r :=
      row_eq_of_fits (List.mem_of_find?_eq_some hf) hr (List.find?_some hf) hfit
    exact ⟨r, hrow ▸ hf, hi⟩

/-! ### The rows and the encoder -/

/-- The row drops no bit: the command it reads from a word it matches has that word. -/
def Row.Faithful (r : Row) : Prop := ∀ w, r.fits w = true → encode (r.command w) = w

/-- The row reads the command back from its word. -/
def Row.Reads (r : Row) (i : Instr) : Prop :=
  r.fits (encode i) = true ∧ r.command (encode i) = i

/-- A command of format R: the encoder appends its fields one by one. -/
theorem append_assoc_formatR (opc : BitVec 8) (rd ra rb : Reg) :
    opc ++ rd ++ ra ++ rb ++ 0#12 = layout opc rd ra (rb ++ 0#12) := BitVec.append_assoc

/-- A command of format D. -/
theorem append_assoc_formatD (opc : BitVec 8) (rd ra : Reg) (d : BitVec 7) :
    opc ++ rd ++ ra ++ 0#9 ++ d = layout opc rd ra (0#9 ++ d) := BitVec.append_assoc

section
variable {opc : BitVec 8} {m : BitVec 16} {command : Word → Instr} {i : Instr}

theorem bare_fits_iff {w : Word} : (Row.bare opc i).fits w = true ↔ w = layout opc 0 0 0 := by
  have hones : w &&& layout 0xFF 0xF 0xF 0xFFFF = w := BitVec.and_allOnes
  rw [Row.fits, Row.bare, rowMatches, hones, beq_iff_eq]

theorem bare_faithful (he : encode i = layout opc 0 0 0) : (Row.bare opc i).Faithful :=
  fun _ hw => he.trans (bare_fits_iff.1 hw).symm

theorem bare_reads (he : encode i = layout opc 0 0 0) : (Row.bare opc i).Reads i :=
  ⟨bare_fits_iff.2 he, rfl⟩

theorem operands_fits_iff {w : Word} :
    (Row.operands opc m command).fits w = true ↔ opcOf w = opc ∧ chOf w &&& m = 0 := by
  have hopc : opcOf (w &&& layout 0xFF 0 0 m) = opcOf w := by
    rw [opcOf_and, opcOf_layout]
    exact BitVec.and_allOnes
  have hch : chOf (w &&& layout 0xFF 0 0 m) = chOf w &&& m := by rw [chOf_and, chOf_layout]
  rw [Row.fits, Row.operands, rowMatches, beq_iff_eq]
  constructor
  · intro h
    rw [← hopc, ← hch, h]
    exact ⟨opcOf_layout .., chOf_layout ..⟩
  · rintro ⟨ho, hl⟩
    apply word_eq_of_fields
    · rw [hopc, ho, opcOf_layout]
    · rw [rdOf_and, rdOf_layout, rdOf_layout]
      exact BitVec.and_zero
    · rw [raOf_and, raOf_layout, raOf_layout]
      exact BitVec.and_zero
    · rw [hch, hl, chOf_layout]

/-- It is enough that the row's command encodes the fields of a word without reserved bits. -/
theorem operands_faithful (he : ∀ w, chOf w &&& m = 0 →
    encode (command w) = layout opc (rdOf w) (raOf w) (chOf w)) :
    (Row.operands opc m command).Faithful := by
  intro w hw
  obtain ⟨rfl, hlow⟩ := operands_fits_iff.1 hw
  exact (he w hlow).trans (layout_fields w)

theorem operands_reads {rd ra : Reg} {low : BitVec 16} (he : encode i = layout opc rd ra low)
    (hlow : low &&& m = 0) (hi : command (layout opc rd ra low) = i) :
    (Row.operands opc m command).Reads i := by
  rw [Row.Reads, operands_fits_iff, he, opcOf_layout, chOf_layout]
  exact ⟨⟨rfl, hlow⟩, hi⟩

theorem formatR_faithful {con : Reg → Reg → Reg → Instr}
    (he : ∀ rd ra rb, encode (con rd ra rb) = opc ++ rd ++ ra ++ rb ++ 0#12) :
    (Row.operands opc 0x0FFF fun w => con (rdOf w) (raOf w) (rbOf w)).Faithful :=
  operands_faithful fun w hlow => by
    rw [he, append_assoc_formatR, rbOf_append_reserved hlow]

theorem formatR_reads {con : Reg → Reg → Reg → Instr} {rd ra rb : Reg}
    (he : encode (con rd ra rb) = opc ++ rd ++ ra ++ rb ++ 0#12) :
    (Row.operands opc 0x0FFF fun w => con (rdOf w) (raOf w) (rbOf w)).Reads (con rd ra rb) :=
  operands_reads (he.trans (append_assoc_formatR ..)) (append_reserved_and rb) (by simp)

end

theorem rows_faithful : ∀ r ∈ rows, r.Faithful := by
  have hvfromi : (Row.operands 0x04 0xFF80 fun w => .vfromi (rdOf w) (raOf w) (dOf w)).Faithful :=
    operands_faithful fun w hlow =>
      (append_assoc_formatD ..).trans (congrArg (layout _ _ _) (reserved_append_dOf hlow))
  have hvtoi : (Row.operands 0x05 0xFFFF fun w => .vtoi (rdOf w) (raOf w)).Faithful :=
    operands_faithful fun w hlow => by
      rw [show chOf w = 0#16 from BitVec.and_allOnes.symm.trans hlow]
      rfl
  have hfirs : (Row.operands 0x10 0x0000 fun w => .firs (rdOf w) (raOf w) (chOf w)).Faithful :=
    operands_faithful fun _ _ => rfl
  simp only [rows, List.forall_mem_cons]
  exact ⟨bare_faithful rfl, formatR_faithful fun _ _ _ => rfl, formatR_faithful fun _ _ _ => rfl,
    formatR_faithful fun _ _ _ => rfl, hvfromi, hvtoi, hfirs, bare_faithful rfl, bare_faithful rfl,
    bare_faithful rfl, bare_faithful rfl, bare_faithful rfl, bare_faithful rfl, bare_faithful rfl,
    List.forall_mem_nil _⟩

theorem exists_row_reads (i : Instr) : ∃ r ∈ rows, r.Reads i := by
  cases i
  case nop => exact ⟨.bare 0x00 .nop, by simp [rows], bare_reads rfl⟩
  case vadd rd ra rb => exact ⟨_, by simp [rows], formatR_reads (opc := 0x01) (con := .vadd) rfl⟩
  case vmul rd ra rb => exact ⟨_, by simp [rows], formatR_reads (opc := 0x02) (con := .vmul) rfl⟩
  case vmac rd ra rb => exact ⟨_, by simp [rows], formatR_reads (opc := 0x03) (con := .vmac) rfl⟩
  case vfromi rd ra d =>
    exact ⟨.operands 0x04 0xFF80 fun w => .vfromi (rdOf w) (raOf w) (dOf w), by simp [rows],
      operands_reads (append_assoc_formatD ..) (reserved_append_and d) (by simp)⟩
  case vtoi rd ra =>
    exact ⟨.operands 0x05 0xFFFF fun w => .vtoi (rdOf w) (raOf w), by simp [rows],
      operands_reads rfl (BitVec.zero_and (x := 0xFFFF#16)) (by simp)⟩
  case firs rd ra ch =>
    exact ⟨.operands 0x10 0x0000 fun w => .firs (rdOf w) (raOf w) (chOf w), by simp [rows],
      operands_reads rfl BitVec.and_zero (by simp)⟩
  case firadv => exact ⟨.bare 0x11 .firadv, by simp [rows], bare_reads rfl⟩
  case firb => exact ⟨.bare 0x12 .firb, by simp [rows], bare_reads rfl⟩
  case dft => exact ⟨.bare 0x20 .dft, by simp [rows], bare_reads rfl⟩
  case beam => exact ⟨.bare 0x30 .beam, by simp [rows], bare_reads rfl⟩
  case conv => exact ⟨.bare 0x40 .conv, by simp [rows], bare_reads rfl⟩
  case deliver => exact ⟨.bare 0x41 .deliver, by simp [rows], bare_reads rfl⟩
  case block => exact ⟨.bare 0x42 .block, by simp [rows], bare_reads rfl⟩

/-! ### Decoding and encoding are inverse -/

/-- The rows read from a word the one command that has that word. -/
theorem decodeRow_eq_some_iff {w : Word} {i : Instr} : decodeRow w = some i ↔ encode i = w := by
  rw [decodeRow_eq_some_iff_row]
  constructor
  · rintro ⟨r, hr, hfit, rfl⟩
    exact rows_faithful r hr w hfit
  · rintro rfl
    exact exists_row_reads i

theorem decode_eq_some_iff {cfg : Config} {w : Word} {i : Instr} :
    decode cfg w = some i ↔ encode i = w ∧ i.wellFormed cfg = true := by
  rw [← decodeRow_eq_some_iff, decode]
  cases decodeRow w with
  | none => simp
  | some j =>
    simp only [Option.ite_none_right_eq_some, Option.some.injEq]
    exact and_comm.trans (and_congr_right fun hj => by rw [hj])

/-- Settles O2, by the row of each command. -/
theorem decodeInvertsEncode : Obligations.DecodeInvertsEncode :=
  fun _ _ hwf => decode_eq_some_iff.2 ⟨rfl, hwf⟩

/-- Settles O3, by the row each legal word matches. -/
theorem encodeInvertsDecode : Obligations.EncodeInvertsDecode :=
  fun _ _ _ hd => decode_eq_some_iff.1 hd

/-! ### Illegal words (R98) -/

theorem opcOf_encode (i : Instr) : opcOf (encode i) = i.opcode := by
  cases i
  case vadd rd ra rb => exact Laws.OpcodeField.vadd rd ra rb
  case vmul rd ra rb => exact Laws.OpcodeField.vmul rd ra rb
  case vmac rd ra rb => exact Laws.OpcodeField.vmac rd ra rb
  case vfromi rd ra d => exact Laws.OpcodeField.vfromi rd ra d
  case vtoi rd ra => exact Laws.OpcodeField.vtoi rd ra
  case firs rd ra ch => exact Laws.OpcodeField.firs rd ra ch
  all_goals rfl

/-- The value checks of R97, read from the command's word. -/
theorem wellFormed_eq_false_iff {cfg : Config} {i : Instr} : i.wellFormed cfg = false ↔
    (opcOf (encode i) = 0x10 ∧ cfg.C ≤ (chOf (encode i)).toNat) ∨
      (opcOf (encode i) = 0x20 ∧ cfg.B < cfg.M) := by
  rw [opcOf_encode]
  cases i
  case firs rd ra ch =>
    have hch : chOf (encode (.firs rd ra ch)) = ch := chOf_layout ..
    simp [Instr.wellFormed, Instr.opcode, hch]
  all_goals simp [Instr.wellFormed, Instr.opcode]

theorem decode_encode_eq_none_iff {cfg : Config} {i : Instr} :
    decode cfg (encode i) = none ↔ i.wellFormed cfg = false := by
  have hrow : decodeRow (encode i) = some i := decodeRow_eq_some_iff.2 rfl
  simp only [decode, hrow, ite_eq_right_iff, reduceCtorEq, imp_false, Bool.not_eq_true]

/-- Settles O4: a word that no row matches is illegal, and any other is a command's word, illegal
when the command fails its value check. -/
theorem illegalWordsAreThoseOfTheRule : Obligations.IllegalWordsAreThoseOfTheRule := by
  intro cfg w
  have hopc (k : Nat) (hk : k < 2 ^ 8) : w.toNat / 2 ^ 24 = k ↔ opcOf w = BitVec.ofNat 8 k := by
    rw [← opcOf_toNat, ← BitVec.toNat_inj, BitVec.toNat_ofNat, Nat.mod_eq_of_lt hk]
  rw [← decodeRow_eq_none_iff, hopc 0x10 (by decide), hopc 0x20 (by decide), ← chOf_toNat]
  cases hd : decodeRow w with
  | none => simp [decode, hd]
  | some i =>
    obtain rfl := decodeRow_eq_some_iff.1 hd
    rw [decode_encode_eq_none_iff, wellFormed_eq_false_iff]
    simp

/-! ### Example words and rejection -/

/-- Settles O1, by running the decoder. -/
theorem exampleWordsDecode : Obligations.ExampleWordsDecode := by
  unfold Obligations.ExampleWordsDecode
  decide

/-- Settles O20: both commands fail their value check. -/
theorem illegalByValueIsRejected : Obligations.IllegalByValueIsRejected :=
  ⟨fun _ _ _ _ hC => Machine.exec_of_not_wellFormed (decide_eq_false (Nat.not_lt.2 hC)),
    fun _ hB => Machine.exec_of_not_wellFormed (decide_eq_false (Nat.not_le.2 hB))⟩

end Sys2Proof

/-! ## Scaled-value arithmetic (40_dpa.md): each function by the cases of its rule, and the five
commands that store its result in a V register. -/

namespace Sys2Proof.Machine

/-! ### The tests of R12, as the rules write their ranges -/

theorem pow10_eq (k : Nat) : pow10 k = 10 ^ k := by simp [pow10]

theorem fits32_iff_pow {x : Int} : fits32 x = true ↔ -2 ^ 31 ≤ x ∧ x ≤ 2 ^ 31 - 1 := fits32_iff

theorem isIn_flagIf_iff {f g : Flag} {c : Bool} :
    f.isIn (flagIf c g) = true ↔ f = g ∧ c = true := by
  rw [isIn_flagIf, Bool.and_eq_true, decide_eq_true_iff, and_comm]

theorem isIn_flagIf_not_fits32 {f g : Flag} {x : Int} :
    f.isIn (flagIf (!fits32 x) g) = true ↔ f = g ∧ ¬(-2 ^ 31 ≤ x ∧ x ≤ 2 ^ 31 - 1) := by
  rw [isIn_flagIf_iff, ← fits32_iff_pow, Bool.not_eq_true', Bool.not_eq_true]

theorem isIn_flagIf_not_fits8 {f g : Flag} {x : Int} :
    f.isIn (flagIf (!fits8 x) g) = true ↔ f = g ∧ ¬(-128 ≤ x ∧ x ≤ 127) := by
  rw [isIn_flagIf_iff, ← fits8_iff, Bool.not_eq_true', Bool.not_eq_true]

theorem isIn_or_iff {f : Flag} {a b : Flags} :
    f.isIn (a ||| b) = true ↔ f.isIn a = true ∨ f.isIn b = true := by
  rw [isIn_or, Bool.or_eq_true]

theorem isIn_mask_iff {f g : Flag} : f.isIn g.mask = true ↔ f = g := by
  rw [isIn_mask, decide_eq_true_iff]

theorem fits32_toInt (m : BitVec 32) : fits32 m.toInt = true :=
  fits32_iff.2 ⟨BitVec.le_toInt m, Int.le_sub_one_of_lt BitVec.toInt_lt⟩

@[simp] theorem wrap32_of_toInt (m : BitVec 32) : wrap32 m.toInt = m := BitVec.ofInt_toInt

/-! ### `fromInteger` (R110) -/

theorem fromInteger_eq (v : Int) (d : Nat) :
    fromInteger v d =
      (⟨wrap32 (v * 10 ^ d), wrap8 (-d)⟩, flagIf (!fits32 (v * 10 ^ d)) .convWrap) := by
  rw [← pow10_eq]; rfl

/-- The scale `-d` of a conversion needs no wrap: `d` is at most 127. -/
theorem fromInteger_scale (v : Int) {d : Nat} (hd : d ≤ 127) :
    (fromInteger v d).1.s.toInt = -(d : Int) :=
  wrap8_toInt_of_fits (fits8_iff.2 (by omega))

/-- Settles O5, by the equation of R110. -/
theorem fromIntegerFollowsItsRule : Obligations.FromIntegerFollowsItsRule := by
  intro v d hd
  refine ⟨?_, fromInteger_scale v hd, fun f => ?_⟩ <;> rw [fromInteger_eq]
  · exact wrap32_toInt _
  · exact isIn_flagIf_not_fits32

/-! ### `toInteger` (R111) -/

theorem toInteger_of_scale_nonneg {a : Scaled} {k : Nat} (hs : a.s.toInt = k) :
    toInteger a =
      (wrap32 (a.m.toInt * 10 ^ k), flagIf (!fits32 (a.m.toInt * 10 ^ k)) .tointWrap) := by
  simp only [toInteger, hs, if_pos (Int.natCast_nonneg k), Int.toNat_natCast, pow10_eq]

theorem toInteger_of_scale_neg {a : Scaled} {k : Nat} (hk : 0 < k) (hs : a.s.toInt = -(k : Int)) :
    toInteger a = (wrap32 (a.m.toInt.tdiv (10 ^ k)),
      flagIf (decide (a.m.toInt.tdiv (10 ^ k) * 10 ^ k ≠ a.m.toInt)) .tointLoss) := by
  have hneg : ¬0 ≤ -(k : Int) := by omega
  simp only [toInteger, hs, if_neg hneg, Int.neg_neg, Int.toNat_natCast, pow10_eq]

/-- Division toward zero never leaves the range of the dividend (R111: "always fits 32 bits"). -/
theorem fits32_tdiv (m : BitVec 32) {d : Int} (hd : 0 ≤ d) : fits32 (m.toInt.tdiv d) = true := by
  have habs : (m.toInt.tdiv d).natAbs ≤ m.toInt.natAbs := Int.natAbs_tdiv_le_natAbs _ _
  have hm := fits32_iff.1 (fits32_toInt m)
  rw [fits32_iff]
  rcases Int.le_total 0 m.toInt with hpos | hneg
  · omega
  · have hq : 0 ≤ (-m.toInt).tdiv d := Int.tdiv_nonneg (by omega) hd
    rw [Int.neg_tdiv] at hq
    omega

/-- A mantissa is below `10^10`, so ten decimal places or more discard it whole. -/
theorem tdiv_pow_eq_zero (m : BitVec 32) {k : Nat} (hk : 10 ≤ k) :
    m.toInt.tdiv (10 ^ k) = 0 := by
  have hm := fits32_iff.1 (fits32_toInt m)
  have hpow : 10 ^ 10 ≤ 10 ^ k := Nat.pow_le_pow_right (by norm_num) hk
  rw [← Int.natAbs_eq_zero, Int.natAbs_tdiv, Int.natAbs_pow]
  exact Nat.div_eq_of_lt (lt_of_lt_of_le (by omega) hpow)

/-- Settles O6, by the sign of the scale. -/
theorem toIntegerFollowsItsRule : Obligations.ToIntegerFollowsItsRule := by
  refine fun a => ⟨fun k hs => ?_, fun k hk hs => ?_⟩
  · rw [toInteger_of_scale_nonneg hs]
    exact ⟨wrap32_toInt _, fun f => isIn_flagIf_not_fits32⟩
  · rw [toInteger_of_scale_neg hk hs]
    refine ⟨wrap32_toInt_of_fits (fits32_tdiv _ (by positivity)), fun hbig => ?_, fun f => ?_⟩
    · rw [tdiv_pow_eq_zero a.m hbig]; rfl
    · rw [isIn_flagIf_iff, decide_eq_true_iff]

/-- An integer that converts without overflow comes back by division when it has decimal places. -/
theorem toInteger_of_exact_multiple {x : Scaled} {v : BitVec 32} {d : Nat} (hd : 0 < d)
    (hs : x.s.toInt = -(d : Int)) (hm : x.m.toInt = v.toInt * 10 ^ d) :
    toInteger x = (v, 0#17) := by
  have hq : (v.toInt * 10 ^ d).tdiv (10 ^ d) = v.toInt :=
    Int.mul_tdiv_cancel _ (pow_ne_zero d (by norm_num))
  rw [toInteger_of_scale_neg hd hs, hm, hq]
  simp

theorem toInteger_of_scale_zero {x : Scaled} (hs : x.s.toInt = 0) : toInteger x = (x.m, 0#17) := by
  rw [toInteger_of_scale_nonneg (k := 0) hs]
  simp [fits32_toInt]

/-- Settles O12: without places the mantissa is the integer, and with some the division is exact. -/
theorem integerRoundTripIsExact : Obligations.IntegerRoundTripIsExact := by
  intro v d hd hlo hhi
  have hfits : fits32 (v.toInt * 10 ^ d) = true := fits32_iff_pow.2 ⟨hlo, hhi⟩
  have hscale := fromInteger_scale v.toInt hd
  have hmant : (fromInteger v.toInt d).1.m.toInt = v.toInt * 10 ^ d := by
    rw [fromInteger_eq]; exact wrap32_toInt_of_fits hfits
  refine ⟨by simp [fromInteger_eq, hfits], ?_⟩
  rcases d.eq_zero_or_pos with rfl | hpos
  · rw [toInteger_of_scale_zero hscale]
    have hv : (fromInteger v.toInt 0).1.m = v := BitVec.eq_of_toInt_eq (by simpa using hmant)
    rw [hv]
  · exact toInteger_of_exact_multiple hpos hscale hmant

/-! ### `add` (R112, R113) -/

/-- With different scales the argument order does not matter: the scale picks the operand that is
aligned. -/
theorem eq_addAligned_of_either_order {hi lo : Scaled} {r : Scaled × Flags}
    (h : lo.s.toInt < hi.s.toInt) (hr : r = add hi lo ∨ r = add lo hi) : r = addAligned hi lo := by
  rcases hr with rfl | rfl
  · exact add_of_scale_gt h
  · exact add_of_scale_lt h

theorem alignedMant_of_diff {hi lo : Scaled} {diff : Nat}
    (h : hi.s.toInt - lo.s.toInt = diff) : alignedMant hi lo = hi.m.toInt * 10 ^ diff := by
  rw [alignedMant, h, Int.toNat_natCast, pow10_eq]

/-- Settles O7, by the scale difference. -/
theorem addFollowsItsThreeCases : Obligations.AddFollowsItsThreeCases := by
  refine ⟨fun a b hs => ?_, fun hi lo hfar r hr => ?_, fun hi lo diff hd hpos hle r hr => ?_⟩
  · rw [add_of_scale_eq hs]
    exact ⟨rfl, wrap32_toInt _, fun f => isIn_flagIf_not_fits32⟩
  · rw [eq_addAligned_of_either_order (by omega) hr, addAligned_of_far (by omega)]
    exact ⟨rfl, fun f => isIn_mask_iff⟩
  · rw [eq_addAligned_of_either_order (by omega) hr, addAligned_of_near (by omega),
      alignedMant_of_diff hd, wrap32_toInt]
    refine ⟨rfl, (wrap32_toInt _).trans Int.bmod_add_bmod, fun f => ?_⟩
    rw [isIn_or_iff, isIn_flagIf_not_fits32, isIn_flagIf_not_fits32]

theorem add_comm_scaled (a b : Scaled) : add a b = add b a := by
  rcases lt_trichotomy a.s.toInt b.s.toInt with hlt | heq | hgt
  · rw [add_of_scale_lt hlt, add_of_scale_gt hlt]
  · have hs : a.s = b.s := BitVec.eq_of_toInt_eq heq
    rw [add_of_scale_eq hs, add_of_scale_eq hs.symm, hs, Int.add_comm]
  · rw [add_of_scale_gt hgt, add_of_scale_lt hgt]

/-- Settles O8: V-ADD-19 is the example against associativity. -/
theorem addCommutesAndDoesNotAssociate : Obligations.AddCommutesAndDoesNotAssociate :=
  ⟨add_comm_scaled, by decide, by decide⟩

/-! ### `multiply` (R114) -/

theorem multiply_of_not_fits {a b : Scaled} (h : ¬fits32 (a.m.toInt * b.m.toInt) = true) :
    multiply a b =
      (⟨wrap32 ((a.m.toInt * b.m.toInt).tdiv 1000), wrap8 (a.s.toInt + b.s.toInt + 3)⟩,
        Flag.mulRescale.mask ||| flagIf (!fits32 ((a.m.toInt * b.m.toInt).tdiv 1000)) .mulWrap |||
          flagIf (!fits8 (a.s.toInt + b.s.toInt + 3)) .scaleWrap) := by
  simp only [multiply, if_neg h]

/-- Settles O10, by whether the exact product fits. -/
theorem multiplyFollowsItsRule : Obligations.MultiplyFollowsItsRule := by
  refine fun a b => ⟨fun hfits => ?_, fun hbig => ?_⟩
  · rw [← fits32_iff_pow] at hfits
    rw [multiply_of_fits hfits]
    exact ⟨wrap32_toInt_of_fits hfits, wrap8_toInt _, fun f => isIn_flagIf_not_fits8⟩
  · rw [← fits32_iff_pow] at hbig
    rw [multiply_of_not_fits hbig]
    refine ⟨wrap32_toInt _, wrap8_toInt _, fun f => ?_⟩
    rw [isIn_or_iff, isIn_or_iff, isIn_mask_iff, isIn_flagIf_not_fits32, isIn_flagIf_not_fits8,
      or_assoc]

/-! ### The commands (R115 to R120, R199) -/

section StoredResult
variable (s : State) (rd : Reg) (r : Scaled × Flags)

theorem readV_storeResult_same : readV (complete (storeResult s rd r)) rd = r.1 := by
  rw [readV_congr (complete_v _), storeResult, readV_congr (raise_v ..), readV_writeV, if_pos rfl]

theorem keepsVBut_storeResult : KeepsVBut rd s (complete (storeResult s rd r)) := by
  intro q hq
  rw [readV_congr (complete_v _), storeResult, readV_congr (raise_v ..), readV_writeV, if_neg hq]

theorem keepsMem_storeResult : KeepsMem s (complete (storeResult s rd r)) := readByte_congr rfl rfl

theorem keepsCounters_storeResult : KeepsCounters s (complete (storeResult s rd r)) :=
  ⟨rfl, rfl, rfl⟩

theorem completes_storeResult {raised : Flag → Prop}
    (h : ∀ f : Flag, f.isIn r.2 = true ↔ raised f) :
    Completes s (complete (storeResult s rd r)) raised := by
  refine ⟨rfl, fun f => ?_, rfl⟩
  rw [← h f, ← isIn_or_iff]; rfl

end StoredResult

theorem OnlyResults.keepsControl {s t : State} (h : OnlyResults s t) :
    KeepsControl s (complete t) := by
  rw [h]; exact ⟨rfl, rfl, rfl, rfl, rfl, rfl, rfl, rfl, rfl, rfl⟩

/-- What a command does whose effect is one stored result: the register, the flags, the frame. -/
theorem exec_of_effect_storeResult {i : Instr} {s : State} {rd : Reg} {r : Scaled × Flags}
    {raised : Flag → Prop} (hwf : i.wellFormed s.cfg = true)
    (heff : effect s i = storeResult s rd r) (hraised : ∀ f : Flag, f.isIn r.2 = true ↔ raised f) :
    ∃ t, exec i s = .next t ∧ readV t rd = r.1 ∧ Completes s t raised ∧
      KeepsVBut rd s t ∧ KeepsMem s t ∧ KeepsCounters s t ∧ KeepsControl s t :=
  ⟨complete (storeResult s rd r), by rw [exec_of_wellFormed hwf, heff],
    readV_storeResult_same s rd r, completes_storeResult s rd r hraised,
    keepsVBut_storeResult s rd r, keepsMem_storeResult s rd r, keepsCounters_storeResult s rd r,
    (onlyResults_storeResult s rd r).keepsControl⟩

/-- Settles O13: VADD stores a sum. -/
theorem vaddWritesTheSum : Obligations.VaddWritesTheSum := fun rd ra rb s =>
  exec_of_effect_storeResult (rd := rd) (r := add (readV s ra) (readV s rb)) rfl rfl
    fun _ => Iff.rfl

/-- Settles O14: VMUL stores a product. -/
theorem vmulWritesTheProduct : Obligations.VmulWritesTheProduct := fun rd ra rb s =>
  exec_of_effect_storeResult (rd := rd) (r := multiply (readV s ra) (readV s rb)) rfl rfl
    fun _ => Iff.rfl

/-- Settles O15: VMAC stores a sum with a product, and raises the flags of both. -/
theorem vmacAccumulatesTheProduct : Obligations.VmacAccumulatesTheProduct := fun rd ra rb s =>
  exec_of_effect_storeResult (rd := rd) (r := mulAdd (readV s rd) (readV s ra) (readV s rb)) rfl
    rfl fun _ => isIn_or_iff

/-- Settles O16: VFROMI stores a conversion. -/
theorem vfromiConvertsTheMantissa : Obligations.VfromiConvertsTheMantissa := fun rd ra d s =>
  exec_of_effect_storeResult (rd := rd) (r := fromInteger (readV s ra).m.toInt d.toNat) rfl rfl
    fun _ => Iff.rfl

/-- Settles O17: VTOI stores an integer with scale 0. -/
theorem vtoiStoresTheIntegerWithScaleZero : Obligations.VtoiStoresTheIntegerWithScaleZero :=
  fun rd ra s => exec_of_effect_storeResult (rd := rd)
    (r := (⟨(toInteger (readV s ra)).1, 0#8⟩, (toInteger (readV s ra)).2)) rfl rfl fun _ => Iff.rfl

end Sys2Proof.Machine

/-! ## The FIR filter bank (41_fir.md): the bytes each loop stores, one filter step, the steps that
touch the filter state, and the bank as a convolution. -/

namespace Sys2Proof.Machine

/-! ### What a store leaves of memory -/

section

variable {s t u : State} {stored : Nat → Prop}

theorem keepsMemBut_refl (s : State) (stored : Nat → Prop) : KeepsMemBut stored s s := fun _ _ => rfl

theorem KeepsMemBut.trans (h1 : KeepsMemBut stored s t) (h2 : KeepsMemBut stored t u) :
    KeepsMemBut stored s u :=
  fun a ha => (h2 a ha).trans (h1 a ha)

theorem KeepsMemBut.mono {more : Nat → Prop} (h : KeepsMemBut stored s t)
    (hsub : ∀ a, stored a → more a) : KeepsMemBut more s t :=
  fun a ha => h a fun hs => ha (hsub a hs)

/-- What comes after the stores may change anything but memory. -/
theorem KeepsMemBut.congr (h : KeepsMemBut stored s t) (hmem : u.mem = t.mem)
    (hseed : u.memSeed = t.memSeed) : KeepsMemBut stored s u :=
  fun a ha => (readByte_congr hmem hseed a).trans (h a ha)

theorem KeepsMemBut.raise (h : KeepsMemBut stored s t) (fs : Flags) :
    KeepsMemBut stored s (t.raise fs) :=
  h.congr (raise_mem ..) (raise_memSeed ..)

theorem keepsMemBut_writeScaled (s : State) (a : Nat) (x : Scaled) :
    KeepsMemBut (ScaledBytes a) s (writeScaled s a x) :=
  fun _ hb => readByte_writeScaled_outside s x (by unfold ScaledBytes at hb; omega)

theorem keepsMemBut_pushDl (s : State) (ch : Nat) (x : Scaled) :
    KeepsMemBut (ScaledBytes (dlAddr s.cfg ch s.cursor.toNat)) s (pushDl s ch x) :=
  keepsMemBut_writeScaled s _ x

end

theorem keepsMemBut_convEntry {s : State} {ch n : Nat} (t : State) (hch : ch < s.cfg.C)
    (hn : n < s.cfg.B) : KeepsMemBut (StreamBytes s.cfg) t (convEntry s ch t n) := by
  rw [convEntry]
  exact ((keepsMemBut_writeScaled t _ _).mono fun _ ha => ⟨ch, n, hch, hn, ha⟩).raise _

theorem keepsMemBut_convertAll (s : State) : KeepsMemBut (StreamBytes s.cfg) s (convertAll s) :=
  foldl_range_rel (KeepsMemBut (StreamBytes s.cfg)) _ _ _ (keepsMemBut_refl s _) fun t _ hch ht =>
    ht.trans <| foldl_range_rel (KeepsMemBut (StreamBytes s.cfg)) _ _ _ (keepsMemBut_refl t _)
      fun u _ hn hu => hu.trans (keepsMemBut_convEntry u hch hn)

theorem keepsMemBut_writeOut {s : State} {i : Nat} (t : State) (hi : i < s.cfg.B) :
    KeepsMemBut (OutBytes s.cfg) t (writeOut s t i) := by
  rw [writeOut]
  exact ((keepsMemBut_writeScaled t _ _).mono fun _ ha => ⟨i, hi, ha⟩).raise _

theorem keepsMemBut_beamAll (s : State) : KeepsMemBut (OutBytes s.cfg) s (beamAll s) :=
  foldl_range_rel (KeepsMemBut (OutBytes s.cfg)) _ _ _ (keepsMemBut_refl s _) fun t _ hi ht =>
    ht.trans (keepsMemBut_writeOut t hi)

theorem keepsMemBut_writeBin {s : State} {k : Nat} (t : State) (hk : k < s.cfg.M / 2) :
    KeepsMemBut (BinBytes s.cfg) t (writeBin s t k) := by
  rw [writeBin]
  refine KeepsMemBut.raise (KeepsMemBut.trans (keepsMemBut_writeScaled t (binReAddr k) _ |>.mono ?_)
    (keepsMemBut_writeScaled _ (binImAddr k) _ |>.mono ?_)) _
  · exact fun _ ha => ⟨k, hk, .inl ha⟩
  · exact fun _ ha => ⟨k, hk, .inr ha⟩

theorem keepsMemBut_dftBins (s : State) : KeepsMemBut (BinBytes s.cfg) s (dftBins s) :=
  foldl_range_rel (KeepsMemBut (BinBytes s.cfg)) _ _ _ (keepsMemBut_refl s _) fun t _ hk ht =>
    ht.trans (keepsMemBut_writeBin t hk)

/-! ### The sum over the taps (R140) -/

/-- The model's running sum is the spec's loop over the same operands. -/
theorem accumulate_mulAdd (x c : Nat → Scaled) (n : Nat) :
    accumulate n (fun acc i => mulAdd acc (x i) (c i)) = macFold x c n := by
  induction n with
  | zero => rfl
  | succ n ih => rw [accumulate_succ, ih, macFold, mulAdd, BitVec.or_assoc]

theorem macFold_congr {x y : Nat → Scaled} (c : Nat → Scaled) {n : Nat}
    (h : ∀ i, i < n → x i = y i) : macFold x c n = macFold y c n := by
  rw [← accumulate_mulAdd, ← accumulate_mulAdd]
  exact accumulate_congr fun acc i hi => by rw [h i hi]

@[simp] theorem tapIndex_pushDl (s : State) (ch : Nat) (x : Scaled) (i : Nat) :
    tapIndex (pushDl s ch x) i = tapIndex s i := by
  simp only [tapIndex, pushDl_cursor, pushDl_cfg]

/-- The sum a filter step computes, over the delay line with the sample stored. -/
theorem tapSum_pushDl (s : State) (ch : Nat) (x : Scaled) :
    tapSum (pushDl s ch x) ch =
      macFold (fun i => readScaled (pushDl s ch x) (dlAddr s.cfg ch (tapIndex s i)))
        (coefAt s.cfg) s.cfg.T := by
  simp only [tapSum, accumulate_mulAdd, tapIndex_pushDl, pushDl_cfg]

/-! ### FIRS and FIRADV (R142, R143) -/

/-- After the sample is stored, FIRS is one stored result. -/
theorem effect_firs (s : State) (rd ra : Reg) (ch : BitVec 16) :
    effect s (.firs rd ra ch) = storeResult (pushDl s ch.toNat (readV s ra)) rd
      (tapSum (pushDl s ch.toNat (readV s ra)) ch.toNat) := rfl

theorem onlyMem_pushDl (s : State) (ch : Nat) (x : Scaled) : OnlyMem s (pushDl s ch x) :=
  onlyMem_writeScaled s _ x

/-- Storing a result in a state that differs from `s` in memory alone completes, and leaves the other
registers and the counters, as if it were done in `s`. -/
theorem storeResult_after_store {s u : State} (h : OnlyMem s u) (hevt : u.evt = s.evt) (rd : Reg)
    (r : Scaled × Flags) {raised : Flag → Prop} (hraised : ∀ f : Flag, f.isIn r.2 = true ↔ raised f) :
    Completes s (complete (storeResult u rd r)) raised ∧
      KeepsVBut rd s (complete (storeResult u rd r)) ∧
      KeepsCounters s (complete (storeResult u rd r)) := by
  have hcompletes := completes_storeResult u rd r hraised
  have hv := keepsVBut_storeResult u rd r
  rw [OnlyMem, hevt] at h
  rw [h] at hcompletes hv ⊢
  exact ⟨hcompletes, hv, rfl, rfl, rfl⟩

/-- Settles O19: the sample is stored, then the sum over the line it joins. -/
theorem firsFiltersOneSample : Obligations.FirsFiltersOneSample := by
  intro rd ra ch s hch
  have hexec := exec_of_wellFormed (i := .firs rd ra ch) (s := s) (decide_eq_true hch)
  have hcontrol := (onlyResults_effect s (.firs rd ra ch)).keepsControl
  have hread : readScaled (pushDl s ch.toNat (readV s ra)) (dlAddr s.cfg ch.toNat s.cursor.toNat) =
      readV s ra := readScaled_writeScaled_same ..
  have hsum := tapSum_pushDl s ch.toNat (readV s ra)
  have hmem := keepsMemBut_pushDl s ch.toNat (readV s ra)
  have honly := onlyMem_pushDl s ch.toNat (readV s ra)
  have hevt := pushDl_evt s ch.toNat (readV s ra)
  rw [effect_firs] at hexec hcontrol
  generalize pushDl s ch.toNat (readV s ra) = u at *
  generalize tapSum u ch.toNat = r at *
  obtain ⟨hcompletes, hv, hcounters⟩ := storeResult_after_store honly hevt rd r fun _ => Iff.rfl
  refine ⟨complete (storeResult u rd r), hexec, hread, ?_, ?_, hv, hmem.congr rfl rfl, hcounters,
    hcontrol⟩
  · exact (readV_storeResult_same u rd r).trans (congrArg Prod.fst hsum)
  · rw [congrArg Prod.snd hsum] at hcompletes
    exact hcompletes

/-- An effect that leaves STATUS alone completes with the flags it left in EVT. -/
theorem completes_complete {s t : State} {raised : Flag → Prop} (hflags : t.flags = s.flags)
    (hevt : ∀ f : Flag, f.isIn t.evt = true ↔ f.isIn s.evt = true ∨ raised f) :
    Completes s (complete t) raised :=
  ⟨rfl, hevt, by rw [complete_flags, complete_evt, hflags]⟩

theorem toNat_cursorAdvance {s : State} (hT : 1 ≤ s.cfg.T ∧ s.cfg.T ≤ 65536) :
    (cursorAdvance s).cursor.toNat = (s.cursor.toNat + 1) % s.cfg.T := by
  have hmod : (s.cursor.toNat + 1) % s.cfg.T < s.cfg.T := Nat.mod_lt _ hT.1
  rw [cursorAdvance_cursor, BitVec.toNat_ofNat, Nat.mod_eq_of_lt (by omega)]

/-- Settles O21: `cursorAdvance` changes the cursor alone. -/
theorem firadvAdvancesTheCursor : Obligations.FiradvAdvancesTheCursor := by
  intro s hlegal
  obtain ⟨-, -, -, hT, -⟩ := hlegal
  exact ⟨complete (cursorAdvance s), exec_of_wellFormed rfl, toNat_cursorAdvance hT, rfl, rfl,
    completes_complete rfl (by simp), readV_congr rfl, readByte_congr rfl rfl,
    (onlyMemCursor_cursorAdvance s).results.keepsControl⟩

/-! ### Which steps reach the delay lines and the cursor (R145) -/

/-- Every byte of the DL region (R62) reads as before. -/
def KeepsDl (s t : State) : Prop := ∀ a, 0x300000 ≤ a → a < 0x400000 → readByte t a = readByte s a

theorem KeepsDl.trans {s t u : State} (h1 : KeepsDl s t) (h2 : KeepsDl t u) : KeepsDl s u :=
  fun a hlo hhi => (h2 a hlo hhi).trans (h1 a hlo hhi)

theorem keepsDl_of_mem {s t : State} (hmem : t.mem = s.mem) (hseed : t.memSeed = s.memSeed) :
    KeepsDl s t :=
  fun a _ _ => readByte_congr hmem hseed a

theorem KeepsMemBut.keepsDl {stored : Nat → Prop} {s t : State} (h : KeepsMemBut stored s t)
    (hout : ∀ a, stored a → a < 0x300000 ∨ 0x400000 ≤ a) : KeepsDl s t :=
  fun a hlo hhi => h a fun ha => by have := hout a ha; omega

theorem keepsDl_applyReset (s : State) : KeepsDl s (applyReset s) :=
  fun a hlo hhi => readByte_applyReset_dl s ((inDl_iff a).2 ⟨hlo, hhi⟩)

/-! #### The other regions lie outside DL -/

/-- STREAM ends where DL begins. -/
theorem streamAddr_below_dl {cfg : Config} {ch n : Nat} (hlegal : cfg.Legal) (hch : ch < cfg.C)
    (hn : n < cfg.B) : streamAddr cfg ch n + 8 ≤ 0x300000 := by
  obtain ⟨-, -, hCB, -⟩ := hlegal
  have he := entryIndex_lt hch hn
  rw [streamAddr, streamBase]
  omega

theorem streamBytes_below_dl {cfg : Config} (hlegal : cfg.Legal) {a : Nat}
    (h : StreamBytes cfg a) : a < 0x300000 := by
  obtain ⟨ch, n, hch, hn, -, hhi⟩ := h
  have := streamAddr_below_dl hlegal hch hn
  omega

theorem outBytes_above_dl {cfg : Config} {a : Nat} (h : OutBytes cfg a) : 0x400000 ≤ a := by
  obtain ⟨n, -, hlo, -⟩ := h
  rw [outAddr, outBase] at hlo
  omega

theorem binBytes_above_dl {cfg : Config} {a : Nat} (h : BinBytes cfg a) : 0x400000 ≤ a := by
  obtain ⟨k, -, ⟨hlo, -⟩ | ⟨hlo, -⟩⟩ := h
  · rw [binReAddr, binBase] at hlo; omega
  · rw [binImAddr, binBase] at hlo; omega

theorem keepsDl_writeRaw {s : State} {e : Nat} (hlegal : s.cfg.Legal) (he : e < s.cfg.C * s.cfg.B)
    (w : Word) : KeepsDl s (writeRaw s (rawBase + 4 * e) w) := by
  obtain ⟨-, -, hCB, -⟩ := hlegal
  refine (writeRaw_frame s _ w).keepsDl fun a ha => .inl ?_
  rw [rawBase] at ha
  omega

theorem keepsMemBut_writeHalf (s : State) (a : Nat) (w : Word) (q : Half) :
    KeepsMemBut (ScaledBytes a) s (writeHalf s a w q) := by
  cases q
  · exact (writeHalf_mant_frame s a w).mono fun x hx => ⟨hx.1, by omega⟩
  · exact (writeHalf_scale_frame s a w).mono fun x hx => ⟨by omega, by omega⟩

/-- The entries of the memories a host can write are outside DL (R65). -/
theorem keepsDl_writeHalf {s : State} {m : ScaledMem} {e : Nat} (hlegal : s.cfg.Legal)
    (hm : m ≠ .dl) (he : e < m.count s.cfg) (w : Word) (q : Half) :
    KeepsDl s (writeHalf s (m.addr e) w q) := by
  refine (keepsMemBut_writeHalf s _ w q).keepsDl fun a ha => ?_
  obtain ⟨hlo, hhi⟩ := ha
  have hcount := m.count_le hlegal
  cases m
  case dl => exact absurd rfl hm
  case stream => left; simp only [ScaledMem.addr, ScaledMem.base, streamBase] at hhi; omega
  case out => right; simp only [ScaledMem.addr, ScaledMem.base, outBase] at hlo; omega
  case bin => right; simp only [ScaledMem.addr, ScaledMem.base, binBase] at hlo; omega

/-! #### The commands -/

theorem OnlyMem.cursor_eq {s t : State} (h : OnlyMem s t) : t.cursor = s.cursor := by rw [h]

/-- A command that does not run the filter step leaves the delay lines. -/
theorem effect_keepsDl {s : State} {i : Instr} (hlegal : s.cfg.Legal) (hi : ¬ RunsFirStep i) :
    KeepsDl s (effect s i) := by
  cases i
  case firs | firb | block => exact absurd trivial hi
  case conv =>
    exact (keepsMemBut_convertAll s).keepsDl fun a ha => .inl (streamBytes_below_dl hlegal ha)
  case beam => exact (keepsMemBut_beamAll s).keepsDl fun a ha => .inr (outBytes_above_dl ha)
  case dft => exact (keepsMemBut_dftBins s).keepsDl fun a ha => .inr (binBytes_above_dl ha)
  all_goals exact keepsDl_of_mem rfl rfl

/-- A command that does not advance the cursor leaves it. -/
theorem effect_cursor {s : State} {i : Instr} (hi : ¬ AdvancesCursor i) :
    (effect s i).cursor = s.cursor := by
  cases i
  case firadv | firb | block => exact absurd trivial hi
  case firs => exact (writeV_cursor ..).trans (onlyMem_firStep ..).cursor_eq
  case conv => exact (onlyMem_convertAll s).cursor_eq
  case beam => exact (onlyMem_beamAll s).cursor_eq
  case dft => exact (onlyMem_dftBins s).cursor_eq
  all_goals rfl

theorem exec_filter_cases {s t : State} {i : Instr} (hlegal : s.cfg.Legal)
    (ht : exec i s = .next t) :
    (KeepsDl s t ∨ RunsFirStep i) ∧ (t.cursor = s.cursor ∨ AdvancesCursor i) := by
  rcases exec_cases i s with e | e <;> rw [e] at ht <;> cases ht
  · exact ⟨or_iff_not_imp_right.2 fun hi => (effect_keepsDl hlegal hi).trans (keepsDl_of_mem rfl rfl),
      or_iff_not_imp_right.2 effect_cursor⟩
  · exact ⟨.inl (keepsDl_of_mem rfl rfl), .inl rfl⟩

/-! #### The agents -/

theorem sequencerTurn_filter_cases {s t : State} (hlegal : s.cfg.Legal)
    (ht : sequencerTurn s = .next t) :
    (KeepsDl s t ∨ s.fsm = .init ∨ Holds s RunsFirStep) ∧
      (t.cursor = s.cursor ∨ Holds s AdvancesCursor) := by
  rcases sequencerTurn_cases s with ⟨hf, e⟩ | ⟨w, i, hf, hd, e⟩ | ⟨_, -, -, e⟩ | ⟨hf, e⟩ |
    ⟨-, -, -, e⟩ | ⟨-, -, e⟩ <;> rw [e] at ht
  case inr.inl =>
    obtain ⟨hdl, hcur⟩ := exec_filter_cases hlegal ht
    exact ⟨hdl.imp_right fun hi => .inr (.inr ⟨w, i, hf, hd, hi⟩),
      hcur.imp_right fun hi => .inr ⟨w, i, hf, hd, hi⟩⟩
  all_goals cases ht
  · exact ⟨.inr (.inl hf), .inl rfl⟩
  · exact ⟨.inl (keepsDl_of_mem rfl rfl), .inl rfl⟩
  · exact ⟨.inr (.inr (.inl hf)), .inr (.inl hf)⟩
  · exact ⟨.inl (keepsDl_of_mem rfl rfl), .inl rfl⟩
  · exact ⟨.inl (keepsDl_of_mem rfl rfl), .inl rfl⟩

theorem writeCtrl_filter_cases (s : State) (w : Word) :
    KeepsDl s (writeCtrl s w) ∧ ((writeCtrl s w).cursor = s.cursor ∨ w.getLsbD 31 = true) := by
  rcases writeCtrl_cases s w with ⟨hw, e⟩ | ⟨-, e⟩ <;> rw [e]
  · exact ⟨keepsDl_applyReset s, .inr hw⟩
  · exact ⟨keepsDl_of_mem rfl rfl, .inl rfl⟩

theorem writeCmd_keeps_filter (s : State) (w : Word) :
    KeepsDl s (writeCmd s w) ∧ (writeCmd s w).cursor = s.cursor := by
  rcases writeCmd_cases s w with ⟨-, -, -, e⟩ | ⟨-, -, -, e⟩ | ⟨-, e⟩ <;> rw [e] <;>
    exact ⟨keepsDl_of_mem rfl rfl, rfl⟩

/-- The host cannot write DL, and moves the cursor only by a reset. -/
theorem hostWrite_filter_cases {s : State} (hlegal : s.cfg.Legal) (a : HostAddr) (w : Word) :
    KeepsDl s (hostWrite s a w) ∧
      ((hostWrite s a w).cursor = s.cursor ∨ a.toNat / 4 = 1 ∧ w.getLsbD 31 = true) := by
  rcases hostWrite_cases s a w with ⟨ha, e⟩ | ⟨-, e⟩ | ⟨-, e⟩ | e | ⟨-, e⟩ | ⟨-, _, _, e⟩ |
    ⟨-, _, he, e⟩ | ⟨-, m, _, q, hm, hloc, e⟩ <;> rw [e]
  · exact (writeCtrl_filter_cases s w).imp_right (Or.imp_right fun hw => ⟨ha, hw⟩)
  · exact ⟨keepsDl_of_mem rfl rfl, .inl rfl⟩
  · exact (writeCmd_keeps_filter s w).imp_right .inl
  · exact ⟨keepsDl_of_mem rfl rfl, .inl rfl⟩
  · exact ⟨keepsDl_of_mem rfl rfl, .inl rfl⟩
  · exact ⟨keepsDl_of_mem rfl rfl, .inl rfl⟩
  · exact ⟨keepsDl_writeRaw hlegal he w, .inl (writeRaw_cursor ..)⟩
  · exact ⟨keepsDl_writeHalf hlegal hm (entry_lt_of_locate hloc) w q, .inl (writeHalf_cursor ..)⟩

theorem producerWrite_keeps_filter {s : State} (hlegal : s.cfg.Legal) (e : Nat) (w : Word) :
    KeepsDl s (producerWrite s e w) ∧ (producerWrite s e w).cursor = s.cursor := by
  rcases producerWrite_cases s e w with ⟨-, he, heq⟩ | ⟨-, heq⟩ <;> rw [heq]
  · exact ⟨keepsDl_writeRaw hlegal he w, writeRaw_cursor ..⟩
  · exact ⟨keepsDl_of_mem rfl rfl, rfl⟩

theorem producerDone_keeps_filter (s : State) :
    KeepsDl s (producerDone s) ∧ (producerDone s).cursor = s.cursor := by
  rcases producerDone_cases s with ⟨-, e⟩ | e <;> rw [e] <;> exact ⟨keepsDl_of_mem rfl rfl, rfl⟩

/-- No agent but the sequencer touches DL, or moves the cursor but by a reset. -/
theorem takeEvent_filter_cases {s t : State} {e : Event} (hlegal : s.cfg.Legal)
    (hseq : e ≠ .sequencer) (ht : takeEvent e s = .next t) :
    KeepsDl s t ∧ (t.cursor = s.cursor ∨ e.Resets) := by
  cases e
  case sequencer => exact absurd rfl hseq
  all_goals cases ht
  case hostWrite a w => exact hostWrite_filter_cases hlegal a w
  case hostRead a => exact ⟨keepsDl_of_mem rfl rfl, .inl rfl⟩
  case rawWrite i w => exact (producerWrite_keeps_filter hlegal i w).imp_right .inl
  case blkDone => exact (producerDone_keeps_filter s).imp_right .inl
  case hardReset => exact ⟨keepsDl_applyReset s, .inr trivial⟩

/-- What a step does to the filter state, and whose step it is when it does something. -/
theorem step_filter_cases {s t : State} (hlegal : s.cfg.Legal) (ht : step s = .next t) :
    (KeepsDl s t ∨ SequencerNext s ∧ (s.fsm = .init ∨ Holds s RunsFirStep)) ∧
      (t.cursor = s.cursor ∨ ResetNext s ∨ SequencerNext s ∧ Holds s AdvancesCursor) := by
  rcases step_cases s with ⟨hnil, e⟩ | ⟨ev, rest, hsched, e⟩ <;> rw [e] at ht
  · obtain ⟨hdl, hcur⟩ := sequencerTurn_filter_cases hlegal ht
    exact ⟨hdl.imp_right fun h => ⟨.inl hnil, h⟩, hcur.imp_right fun h => .inr ⟨.inl hnil, h⟩⟩
  by_cases hev : ev = .sequencer
  · subst hev
    have hnext : SequencerNext s := .inr ⟨rest, hsched⟩
    obtain ⟨hdl, hcur⟩ := sequencerTurn_filter_cases (s := { s with schedule := rest }) hlegal ht
    exact ⟨hdl.imp_right fun h => ⟨hnext, h⟩, hcur.imp_right fun h => .inr ⟨hnext, h⟩⟩
  · obtain ⟨hdl, hcur⟩ := takeEvent_filter_cases (s := { s with schedule := rest }) hlegal hev ht
    exact ⟨.inl hdl, hcur.imp_right fun h => .inl (resetNext_of_resets hsched h)⟩

/-- Settles O24, by the agent whose step it is. -/
theorem onlyFilteringAndResetTouchFilterState :
    Obligations.OnlyFilteringAndResetTouchFilterState := by
  intro s t hlegal ht
  obtain ⟨hdl, hcur⟩ := step_filter_cases hlegal ht
  exact ⟨fun a hlo hhi hne => hdl.resolve_left fun h => hne (h a hlo hhi), hcur.resolve_left⟩

/-! ### The flags a filter sum can raise (R112, R114) -/

/-- The flags of `add` and `multiply`. -/
def macFlags : List Flag := [.mulRescale, .mulWrap, .scaleWrap, .addSkip, .alignWrap, .addWrap]

theorem mem_macFlags_of_addAligned {f : Flag} {hi lo : Scaled}
    (h : f.isIn (addAligned hi lo).2 = true) : f ∈ macFlags := by
  by_cases hfar : 10 < (hi.s.toInt - lo.s.toInt).toNat
  · rw [addAligned_of_far hfar, isIn_mask_iff] at h
    simp [macFlags, h]
  · rw [addAligned_of_near hfar, isIn_or_iff, isIn_flagIf_iff, isIn_flagIf_iff] at h
    rcases h with ⟨rfl, -⟩ | ⟨rfl, -⟩ <;> simp [macFlags]

theorem mem_macFlags_of_add {f : Flag} {a b : Scaled} (h : f.isIn (add a b).2 = true) :
    f ∈ macFlags := by
  by_cases heq : a.s = b.s
  · rw [add_of_scale_eq heq, isIn_flagIf_iff] at h
    simp [macFlags, h.1]
  · have hne : a.s.toInt ≠ b.s.toInt := fun e => heq (BitVec.eq_of_toInt_eq e)
    rcases lt_or_gt_of_ne hne with hlt | hgt
    · rw [add_of_scale_lt hlt] at h; exact mem_macFlags_of_addAligned h
    · rw [add_of_scale_gt hgt] at h; exact mem_macFlags_of_addAligned h

theorem mem_macFlags_of_multiply {f : Flag} {a b : Scaled} (h : f.isIn (multiply a b).2 = true) :
    f ∈ macFlags := by
  by_cases hfits : fits32 (a.m.toInt * b.m.toInt) = true
  · rw [multiply_of_fits hfits, isIn_flagIf_iff] at h
    simp [macFlags, h.1]
  · rw [multiply_of_not_fits hfits, isIn_or_iff, isIn_or_iff, isIn_mask_iff, isIn_flagIf_iff,
      isIn_flagIf_iff] at h
    rcases h with (rfl | ⟨rfl, -⟩) | ⟨rfl, -⟩ <;> simp [macFlags]

theorem mem_macFlags_of_macFold {f : Flag} {x c : Nat → Scaled} {n : Nat}
    (h : f.isIn (macFold x c n).2 = true) : f ∈ macFlags := by
  induction n with
  | zero => rw [macFold, isIn_zero] at h; cases h
  | succ n ih =>
    rw [macFold, isIn_or_iff, isIn_or_iff] at h
    rcases h with (h | h) | h
    · exact ih h
    · exact mem_macFlags_of_multiply h
    · exact mem_macFlags_of_add h

/-! ### The entries of the memories do not overlap (R62) -/

/-- Entry numbers of a region of rows of `W` are those of one row and one index only. -/
theorem entryIndex_inj {ch ch' n n' W : Nat} (hn : n < W) (hn' : n' < W) :
    ch' * W + n' = ch * W + n ↔ ch' = ch ∧ n' = n := by
  have hrow : ∀ c m, m < W → (c * W + m) / W = c := fun c m hm => by
    rw [Nat.add_comm, Nat.add_mul_div_right _ _ (by omega), Nat.div_eq_of_lt hm, Nat.zero_add]
  constructor
  · intro h
    have hch : ch' = ch := by rw [← hrow ch' n' hn', h, hrow ch n hn]
    subst hch
    exact ⟨rfl, by omega⟩
  · rintro ⟨rfl, rfl⟩; rfl

/-- An entry of a region reads as it was written, if it was, and else as before. -/
theorem readScaled_writeScaled_entry (s : State) (base : Nat) {ch ch' n n' W : Nat} (hn : n < W)
    (hn' : n' < W) (x : Scaled) :
    readScaled (writeScaled s (base + 8 * (ch * W + n)) x) (base + 8 * (ch' * W + n')) =
      if ch' = ch ∧ n' = n then x else readScaled s (base + 8 * (ch' * W + n')) := by
  simp only [← entryIndex_inj hn hn']
  split
  · next h => rw [h, readScaled_writeScaled_same]
  · exact readScaled_writeScaled_apart s x (by omega)

theorem readScaled_writeScaled_stream (s : State) {cfg : Config} {ch ch' n m : Nat} (hn : n < cfg.B)
    (hm : m < cfg.B) (x : Scaled) :
    readScaled (writeScaled s (streamAddr cfg ch n) x) (streamAddr cfg ch' m) =
      if ch' = ch ∧ m = n then x else readScaled s (streamAddr cfg ch' m) :=
  readScaled_writeScaled_entry s streamBase hn hm x

@[simp] theorem readScaled_raise (s : State) (fs : Flags) (a : Nat) :
    readScaled (s.raise fs) a = readScaled s a :=
  readScaled_congr (raise_mem ..) (raise_memSeed ..) a

theorem dl_above_stream (cfg : Config) (ch j : Nat) : 0x300000 ≤ dlAddr cfg ch j := by
  rw [dlAddr, dlBase]; omega

/-! ### One pass of the bank (R144) -/

section

variable {t : State} {n ch : Nat}

/-- The delay line with the sample of a pass stored. -/
theorem readScaled_pushDl_dl (x : Scaled) {ch' j : Nat} (hcur : t.cursor.toNat < t.cfg.T)
    (hj : j < t.cfg.T) : readScaled (pushDl t ch x) (dlAddr t.cfg ch' j) =
      if ch' = ch ∧ j = t.cursor.toNat then x else readScaled t (dlAddr t.cfg ch' j) :=
  readScaled_writeScaled_entry t dlBase hcur hj x

theorem readScaled_pushDl_stream (x : Scaled) {ch' m : Nat} (hlegal : t.cfg.Legal)
    (hch' : ch' < t.cfg.C) (hm : m < t.cfg.B) :
    readScaled (pushDl t ch x) (streamAddr t.cfg ch' m) = readScaled t (streamAddr t.cfg ch' m) := by
  have hlt := streamAddr_below_dl hlegal hch' hm
  have hge := dl_above_stream t.cfg ch t.cursor.toNat
  exact readScaled_writeScaled_apart t x (by omega)

/-- The state of a pass with its sample stored, before the sum is. -/
def pushSample (n : Nat) (t : State) (ch : Nat) : State :=
  pushDl t ch (readScaled t (streamAddr t.cfg ch n))

theorem firStream_eq (n : Nat) (t : State) (ch : Nat) : firStream n t ch =
    writeScaled ((pushSample n t ch).raise (tapSum (pushSample n t ch) ch).2)
      (streamAddr t.cfg ch n) (tapSum (pushSample n t ch) ch).1 := by
  simp only [firStream, firStep, pushSample]

theorem firStream_evt :
    (firStream n t ch).evt = t.evt ||| (tapSum (pushSample n t ch) ch).2 := by
  rw [firStream_eq, writeScaled_evt, raise_evt, pushSample, pushDl_evt]

theorem readScaled_firStream_dl (ch' j : Nat) (hlegal : t.cfg.Legal) (hch : ch < t.cfg.C)
    (hn : n < t.cfg.B) : readScaled (firStream n t ch) (dlAddr t.cfg ch' j) =
      readScaled (pushSample n t ch) (dlAddr t.cfg ch' j) := by
  have hlt := streamAddr_below_dl hlegal hch hn
  have hge := dl_above_stream t.cfg ch' j
  rw [firStream_eq, readScaled_writeScaled_apart _ _ (by omega), readScaled_raise]

theorem readScaled_firStream_stream {ch' m : Nat} (hlegal : t.cfg.Legal) (hn : n < t.cfg.B)
    (hch' : ch' < t.cfg.C) (hm : m < t.cfg.B) :
    readScaled (firStream n t ch) (streamAddr t.cfg ch' m) =
      if ch' = ch ∧ m = n then (tapSum (pushSample n t ch) ch).1
      else readScaled t (streamAddr t.cfg ch' m) := by
  rw [firStream_eq, readScaled_writeScaled_stream _ hn hm, readScaled_raise, pushSample,
    readScaled_pushDl_stream _ hlegal hch' hm]

end

/-! ### The delay line as a history (R28, R140) -/

/-- Where the line keeps the input of `k` samples ago, once `n` samples of a block are through. -/
def lineSlot (s : State) (n k : Nat) : Nat := (s.cursor.toNat + n + s.cfg.T - 1 - k) % s.cfg.T

/-- The input of `k` samples ago, once `n` samples of a block are through: from the block, or from
the line it found. -/
def lineEntry (s : State) (ch n k : Nat) : Scaled :=
  if k < n then readScaled s (streamAddr s.cfg ch (n - 1 - k))
  else readScaled s (dlAddr s.cfg ch (lineSlot s n k))

section

variable (s : State) (ch n k : Nat)

theorem lineSlot_lt (hT : 0 < s.cfg.T) : lineSlot s n k < s.cfg.T := Nat.mod_lt _ hT

/-- The newest input is where the cursor stood when it came. -/
theorem lineSlot_succ_zero : lineSlot s (n + 1) 0 = (s.cursor.toNat + n) % s.cfg.T := by
  have hsum : s.cursor.toNat + (n + 1) + s.cfg.T - 1 - 0 = s.cursor.toNat + n + s.cfg.T := by omega
  rw [lineSlot, hsum, Nat.add_mod_right]

/-- Every other input stays where it was, one sample older. -/
theorem lineSlot_succ_succ : lineSlot s (n + 1) (k + 1) = lineSlot s n k := by
  rw [lineSlot, lineSlot]; congr 1; omega

/-- Only the oldest input stands at the cursor. -/
theorem lineSlot_ne_cursor (hk : k + 1 < s.cfg.T) :
    lineSlot s n k ≠ (s.cursor.toNat + n) % s.cfg.T := by
  intro h
  have hsum : s.cursor.toNat + n + s.cfg.T - 1 - k = s.cursor.toNat + n + (s.cfg.T - 1 - k) := by
    omega
  rw [lineSlot, hsum] at h
  have hmod : s.cfg.T - 1 - k ≡ 0 [MOD s.cfg.T] := Nat.ModEq.add_left_cancel' _ h
  rw [Nat.ModEq, Nat.mod_eq_of_lt (by omega), Nat.zero_mod] at hmod
  omega

theorem lineEntry_succ_zero :
    lineEntry s ch (n + 1) 0 = readScaled s (streamAddr s.cfg ch n) := by
  simp [lineEntry]

theorem lineEntry_succ_succ : lineEntry s ch (n + 1) (k + 1) = lineEntry s ch n k := by
  have hidx : n + 1 - 1 - (k + 1) = n - 1 - k := by omega
  simp only [lineEntry, lineSlot_succ_succ, hidx, Nat.add_lt_add_iff_right]

/-- Tap `i` of sample `n` reads the input of `i` samples ago, with sample `n` through. -/
theorem tapInput_eq_lineEntry : tapInput s ch n k = lineEntry s ch (n + 1) k := by
  have hsum : s.cursor.toNat + (n + 1) + s.cfg.T - 1 - k = s.cursor.toNat + n + s.cfg.T - k := by
    omega
  simp only [tapInput, lineEntry, lineSlot, hsum, Nat.lt_succ_iff, Nat.add_sub_cancel]

variable {s n k}

theorem tapIndex_eq_lineSlot {t : State} (hcfg : t.cfg = s.cfg)
    (hcur : t.cursor.toNat = (s.cursor.toNat + n) % s.cfg.T) (hk : k < s.cfg.T) :
    tapIndex t k = lineSlot s (n + 1) k := by
  have hsum : ((s.cursor.toNat + (n + 1) + s.cfg.T - 1 - k : Nat) : Int) =
      (s.cursor.toNat + n : Nat) - (k : Int) + s.cfg.T := by omega
  have hslot : ((lineSlot s (n + 1) k : Nat) : Int) =
      (((s.cursor.toNat + n) % s.cfg.T : Nat) - (k : Int)) % (s.cfg.T : Int) := by
    rw [lineSlot, Int.natCast_mod, hsum, Int.add_emod_right, Int.natCast_mod, Int.emod_sub_emod]
  rw [tapIndex, hcfg, hcur, ← hslot, Int.toNat_natCast]

end

/-! ### The bank, pass by pass (R144) -/

/-- Loop induction for a property that counts the passes done. -/
theorem foldl_range_count {σ : Type} (P : Nat → σ → Prop) (f : σ → Nat → σ) (n : Nat) (s : σ)
    (h0 : P 0 s) (h : ∀ t i, i < n → P i t → P (i + 1) (f t i)) :
    P n ((List.range n).foldl f s) := by
  induction n with
  | zero => simpa using h0
  | succ n ih =>
    rw [List.range_succ, List.foldl_append]
    exact h _ n (Nat.lt_succ_self n) (ih fun t i hi => h t i (Nat.lt_succ_of_lt hi))

/-- The filtered sample `n` of a channel, with the flags of its sum (R140). -/
def filtered (s : State) (ch n : Nat) : Scaled × Flags :=
  macFold (tapInput s ch n) (coefAt s.cfg) s.cfg.T

/-- Of a bank run from `s`, `t` is where the first `done ch` samples of each channel are through. -/
structure BankAt (s : State) (done : Nat → Nat) (t : State) : Prop where
  cfg_eq : t.cfg = s.cfg
  line : ∀ ch k, ch < s.cfg.C → k < s.cfg.T →
    readScaled t (dlAddr s.cfg ch (lineSlot s (done ch) k)) = lineEntry s ch (done ch) k
  stream : ∀ ch n, ch < s.cfg.C → n < s.cfg.B → readScaled t (streamAddr s.cfg ch n) =
    if n < done ch then (filtered s ch n).1 else readScaled s (streamAddr s.cfg ch n)
  evt : ∀ f : Flag, f.isIn t.evt = true ↔ f.isIn s.evt = true ∨
    ∃ ch n, ch < s.cfg.C ∧ n < done ch ∧ f.isIn (filtered s ch n).2 = true

theorem bankAt_start (s : State) : BankAt s (fun _ => 0) s where
  cfg_eq := rfl
  line _ _ _ _ := rfl
  stream _ _ _ _ := rfl
  evt := by simp

/-- Only the configured channels count. -/
theorem BankAt.congr {s t : State} {done done' : Nat → Nat} (h : BankAt s done t)
    (heq : ∀ ch, ch < s.cfg.C → done ch = done' ch) : BankAt s done' t where
  cfg_eq := h.cfg_eq
  line ch k hch hk := heq ch hch ▸ h.line ch k hch hk
  stream ch n hch hn := heq ch hch ▸ h.stream ch n hch hn
  evt f := by
    rw [h.evt f]
    refine or_congr_right (exists_congr fun ch => exists_congr fun n => and_congr_right fun hch => ?_)
    rw [heq ch hch]

theorem BankAt.cursorAdvance {s t : State} {done : Nat → Nat} (h : BankAt s done t) :
    BankAt s done (cursorAdvance t) where
  cfg_eq := h.cfg_eq
  line := h.line
  stream := h.stream
  evt := h.evt

/-- A pass of the bank is due: sample `n` of channel `ch`, whose samples before it are through. -/
structure PassDue (s : State) (done : Nat → Nat) (n ch : Nat) (t : State) : Prop
    extends BankAt s done t where
  legal : s.cfg.Legal
  cursor : t.cursor.toNat = (s.cursor.toNat + n) % s.cfg.T
  next : done ch = n
  ch_lt : ch < s.cfg.C
  n_lt : n < s.cfg.B

section

variable {s t : State} {done : Nat → Nat} {n ch : Nat}

theorem PassDue.tap_pos (h : PassDue s done n ch t) : 0 < s.cfg.T := by
  obtain ⟨-, -, -, ⟨hT, -⟩, -⟩ := h.legal
  exact hT

/-- What storing the sample of a pass does to the lines. -/
theorem PassDue.readScaled_pushSample (h : PassDue s done n ch t) (c : Nat) {j : Nat}
    (hj : j < s.cfg.T) : readScaled (pushSample n t ch) (dlAddr s.cfg c j) =
      if c = ch ∧ j = (s.cursor.toNat + n) % s.cfg.T then readScaled s (streamAddr s.cfg ch n)
      else readScaled t (dlAddr s.cfg c j) := by
  have hcur : t.cursor.toNat < t.cfg.T := by
    rw [h.cursor, h.cfg_eq]; exact Nat.mod_lt _ h.tap_pos
  have hread : readScaled t (streamAddr s.cfg ch n) = readScaled s (streamAddr s.cfg ch n) := by
    rw [h.stream ch n h.ch_lt h.n_lt, h.next, if_neg (Nat.lt_irrefl n)]
  have hpush := readScaled_pushDl_dl (ch := ch) (readScaled t (streamAddr t.cfg ch n)) (ch' := c)
    hcur (h.cfg_eq ▸ hj)
  rw [← pushSample, h.cfg_eq, hread, h.cursor] at hpush
  exact hpush

/-- Once its sample is stored, a channel's line is that of one sample more. -/
theorem PassDue.pushSample_line (h : PassDue s done n ch t) {k : Nat} (hk : k < s.cfg.T) :
    readScaled (pushSample n t ch) (dlAddr s.cfg ch (lineSlot s (n + 1) k)) =
      lineEntry s ch (n + 1) k := by
  rw [h.readScaled_pushSample ch (lineSlot_lt s (n + 1) k h.tap_pos)]
  cases k with
  | zero => rw [if_pos ⟨rfl, lineSlot_succ_zero s n⟩, lineEntry_succ_zero]
  | succ k =>
    have hold := h.line ch k h.ch_lt (by omega)
    rw [h.next] at hold
    rw [lineSlot_succ_succ, lineEntry_succ_succ, if_neg fun e => lineSlot_ne_cursor s n k hk e.2,
      hold]

/-- So its sum is the filtered sample of the spec. -/
theorem PassDue.tapSum_pushSample (h : PassDue s done n ch t) :
    tapSum (pushSample n t ch) ch = filtered s ch n := by
  rw [pushSample, tapSum_pushDl, ← pushSample, h.cfg_eq, filtered]
  refine macFold_congr _ fun i hi => ?_
  rw [tapIndex_eq_lineSlot h.cfg_eq h.cursor hi, h.pushSample_line hi, tapInput_eq_lineEntry]

/-- The samples through after a pass are those before it and the one it was for. -/
theorem PassDue.lt_update_iff (h : PassDue s done n ch t) (c m : Nat) :
    m < Function.update done ch (n + 1) c ↔ (c = ch ∧ m = n) ∨ m < done c := by
  by_cases hc : c = ch
  · subst hc
    rw [Function.update_self, h.next]
    omega
  · simp [hc]

theorem PassDue.firStream_line (h : PassDue s done n ch t) {c k : Nat} (hc : c < s.cfg.C)
    (hk : k < s.cfg.T) :
    readScaled (firStream n t ch)
        (dlAddr s.cfg c (lineSlot s (Function.update done ch (n + 1) c) k)) =
      lineEntry s c (Function.update done ch (n + 1) c) k := by
  have hdl := readScaled_firStream_dl (t := t) (ch := ch) (n := n) c
    (lineSlot s (Function.update done ch (n + 1) c) k) (h.cfg_eq ▸ h.legal) (h.cfg_eq ▸ h.ch_lt)
    (h.cfg_eq ▸ h.n_lt)
  rw [h.cfg_eq] at hdl
  rw [hdl]
  by_cases hcc : c = ch
  · subst hcc
    rw [Function.update_self]
    exact h.pushSample_line hk
  · rw [Function.update_of_ne hcc, h.readScaled_pushSample c (lineSlot_lt _ _ _ h.tap_pos),
      if_neg fun e => hcc e.1]
    exact h.line c k hc hk

theorem PassDue.firStream_stream (h : PassDue s done n ch t) {c m : Nat} (hc : c < s.cfg.C)
    (hm : m < s.cfg.B) : readScaled (firStream n t ch) (streamAddr s.cfg c m) =
      if m < Function.update done ch (n + 1) c then (filtered s c m).1
      else readScaled s (streamAddr s.cfg c m) := by
  have hstream := readScaled_firStream_stream (t := t) (ch := ch) (n := n) (h.cfg_eq ▸ h.legal)
    (h.cfg_eq ▸ h.n_lt) (h.cfg_eq ▸ hc) (h.cfg_eq ▸ hm)
  rw [h.cfg_eq, h.tapSum_pushSample, h.stream c m hc hm] at hstream
  simp only [hstream, h.lt_update_iff]
  by_cases hnow : c = ch ∧ m = n
  · obtain ⟨rfl, rfl⟩ := hnow
    simp
  · simp [hnow]

/-- A pass of the bank brings its channel one sample on. -/
theorem PassDue.firStream (h : PassDue s done n ch t) :
    BankAt s (Function.update done ch (n + 1)) (firStream n t ch) where
  cfg_eq := (onlyMem_firStream n t ch).results.cfg_eq.trans h.cfg_eq
  line _ _ hc hk := h.firStream_line hc hk
  stream _ _ hc hm := h.firStream_stream hc hm
  evt f := by
    rw [firStream_evt, isIn_or_iff, h.tapSum_pushSample, h.evt f]
    simp only [h.lt_update_iff]
    constructor
    · rintro ((hs | ⟨c, m, hc, hm, hf⟩) | hf)
      · exact .inl hs
      · exact .inr ⟨c, m, hc, .inr hm, hf⟩
      · exact .inr ⟨ch, n, h.ch_lt, .inl ⟨rfl, rfl⟩, hf⟩
    · rintro (hs | ⟨c, m, hc, ⟨rfl, rfl⟩ | hm, hf⟩)
      · exact .inl (.inl hs)
      · exact .inr hf
      · exact .inl (.inr ⟨c, m, hc, hm, hf⟩)

end

/-! ### The bank, sample by sample -/

/-- Of a bank run from `s`, `t` is where the first `n` samples of every channel are through. -/
structure BankAtSample (s : State) (n : Nat) (t : State) : Prop extends BankAt s (fun _ => n) t where
  cursor : t.cursor.toNat = (s.cursor.toNat + n) % s.cfg.T

/-- In the midst of sample `n`, with the first `m` channels past it. -/
def doneBelow (n m ch : Nat) : Nat := if ch < m then n + 1 else n

theorem update_doneBelow (n m : Nat) :
    Function.update (doneBelow n m) m (n + 1) = doneBelow n (m + 1) := by
  funext ch
  by_cases h : ch = m
  · subst h; simp [doneBelow]
  · have hlt : ch < m + 1 ↔ ch < m := by omega
    simp [doneBelow, Function.update_of_ne h, hlt]

section

variable {s t : State} {n : Nat}

/-- The channels of one sample, one after the other. -/
theorem BankAtSample.channels (h : BankAtSample s n t) (hlegal : s.cfg.Legal) (hn : n < s.cfg.B) :
    BankAt s (doneBelow n s.cfg.C) ((List.range s.cfg.C).foldl (Machine.firStream n) t) ∧
      ((List.range s.cfg.C).foldl (Machine.firStream n) t).cursor = t.cursor := by
  refine foldl_range_count (fun m u => BankAt s (doneBelow n m) u ∧ u.cursor = t.cursor) _ _ _
    ⟨h.toBankAt.congr fun _ _ => by simp [doneBelow], rfl⟩ fun u ch hch ⟨hbank, hcur⟩ => ?_
  have hdue : PassDue s (doneBelow n ch) n ch u :=
    ⟨hbank, hlegal, by rw [hcur, h.cursor], by simp [doneBelow], hch, hn⟩
  exact ⟨update_doneBelow n ch ▸ hdue.firStream, (onlyMem_firStream n u ch).cursor_eq.trans hcur⟩

theorem BankAtSample.firSample (h : BankAtSample s n t) (hlegal : s.cfg.Legal) (hn : n < s.cfg.B) :
    BankAtSample s (n + 1) (firSample t n) := by
  obtain ⟨hbank, hcur⟩ := h.channels hlegal hn
  obtain ⟨-, -, -, hT, -⟩ := hlegal
  rw [Machine.firSample, h.cfg_eq]
  refine ⟨(hbank.congr fun ch hch => if_pos hch).cursorAdvance, ?_⟩
  rw [toNat_cursorAdvance (by rw [hbank.cfg_eq]; exact hT), hbank.cfg_eq, hcur, h.cursor,
    Nat.mod_add_mod, Nat.add_assoc]

end

/-- The whole bank run: every sample of every channel is through. -/
theorem bankAtSample_firBank {s : State} (hlegal : s.cfg.Legal) (hcur : s.cursor.toNat < s.cfg.T) :
    BankAtSample s s.cfg.B (firBank s) :=
  foldl_range_count (BankAtSample s) _ _ _
    ⟨bankAt_start s, by rw [Nat.add_zero, Nat.mod_eq_of_lt hcur]⟩
    fun _ _ hn ht => ht.firSample hlegal hn

/-! ### FIRB (R144) -/

theorem exec_firb (s : State) : exec .firb s = .next (complete (firBank s)) := exec_of_wellFormed rfl

theorem completes_firBank {s : State} (hlegal : s.cfg.Legal) (hcur : s.cursor.toNat < s.cfg.T) :
    Completes s (complete (firBank s)) fun f => ∃ ch n, ch < s.cfg.C ∧ n < s.cfg.B ∧
      f.isIn (filtered s ch n).2 = true :=
  completes_complete (onlyMemCursor_firBank s).results.flags_eq (bankAtSample_firBank hlegal hcur).evt

/-- Settles O22: the state of the bank run with all `B` samples through. -/
theorem firbConvolvesEveryChannel : Obligations.FirbConvolvesEveryChannel := by
  intro s hlegal hcur
  have hbank := bankAtSample_firBank hlegal hcur
  have hread : ∀ a, readScaled (complete (firBank s)) a = readScaled (firBank s) a :=
    readScaled_congr (complete_mem _) (complete_memSeed _)
  refine ⟨_, exec_firb s, fun ch n hch hn => ?_, fun ch k hch hk => ?_, hbank.cursor,
    completes_firBank hlegal hcur⟩
  · rw [hread, hbank.stream ch n hch hn, if_pos hn, filtered]
  · rw [hread]
    exact hbank.line ch k hch hk

theorem keepsMemBut_firStream {t : State} {n ch : Nat} (hcur : CursorInRange t)
    (hch : ch < t.cfg.C) (hn : n < t.cfg.B) :
    KeepsMemBut (fun a => StreamBytes t.cfg a ∨ DlBytes t.cfg a) t (firStream n t ch) := by
  have hpush := (keepsMemBut_pushDl t ch (readScaled t (streamAddr t.cfg ch n))).mono
    (more := fun a => StreamBytes t.cfg a ∨ DlBytes t.cfg a)
    fun _ ha => .inr ⟨ch, t.cursor.toNat, hch, hcur.2, ha⟩
  rw [firStream_eq]
  refine (hpush.raise _).trans ((keepsMemBut_writeScaled _ _ _).mono fun _ ha => ?_)
  exact .inl ⟨ch, n, hch, hn, ha⟩

/-- What the passes of the bank keep: bytes outside STREAM and DL, the cursor in range, the
configuration. -/
structure BankFrame (s t : State) : Prop where
  mem : KeepsMemBut (fun a => StreamBytes s.cfg a ∨ DlBytes s.cfg a) s t
  cursor : CursorInRange t
  cfg_eq : t.cfg = s.cfg

theorem BankFrame.firStream {s t : State} {n ch : Nat} (h : BankFrame s t) (hch : ch < s.cfg.C)
    (hn : n < s.cfg.B) : BankFrame s (firStream n t ch) := by
  have honly := onlyMem_firStream n t ch
  have hmem := keepsMemBut_firStream h.cursor (h.cfg_eq ▸ hch) (h.cfg_eq ▸ hn)
  rw [h.cfg_eq] at hmem
  exact ⟨h.mem.trans hmem, honly.cursorInRange h.cursor, honly.results.cfg_eq.trans h.cfg_eq⟩

theorem BankFrame.firSample {s t : State} {n : Nat} (h : BankFrame s t) (hn : n < s.cfg.B) :
    BankFrame s (firSample t n) := by
  obtain ⟨hmem, hcur, hcfg⟩ := foldl_range_inv (BankFrame s) (Machine.firStream n) t.cfg.C t h
    fun u ch hch hu => hu.firStream (h.cfg_eq ▸ hch) hn
  exact ⟨hmem.congr rfl rfl, cursorInRange_cursorAdvance hcur, hcfg⟩

theorem keepsMemBut_firBank {s : State} (hcur : CursorInRange s) :
    KeepsMemBut (fun a => StreamBytes s.cfg a ∨ DlBytes s.cfg a) s (firBank s) :=
  (foldl_range_inv (BankFrame s) _ _ _ ⟨keepsMemBut_refl s _, hcur, rfl⟩ fun _ _ hn ht =>
    ht.firSample hn).mem

/-- A completion that raises no flag `f` and is not DONE shows of `f` what STATUS and EVT held. -/
theorem Completes.isIn_flags {s t : State} {raised : Flag → Prop} {f : Flag}
    (h : Completes s t raised) (hraised : ¬ raised f) (hdone : f ≠ .done) :
    f.isIn t.flags = (f.isIn s.flags || f.isIn s.evt) := by
  obtain ⟨-, hevt, hflags⟩ := h
  have hsame : f.isIn t.evt = f.isIn s.evt := by
    rw [Bool.eq_iff_iff, hevt f, or_iff_left hraised]
  simp [hflags, hsame, hdone]

/-- Settles O23: the passes store in STREAM and DL alone, and their sums raise only `macFlags`. -/
theorem firbWritesOnlyItsWriteSet : Obligations.FirbWritesOnlyItsWriteSet := by
  intro s hlegal hcur
  have hrange : CursorInRange s := by obtain ⟨-, -, -, hT, -⟩ := hlegal; exact ⟨hT, hcur⟩
  have honly := onlyMemCursor_firBank s
  have hv : (firBank s).v = s.v := by rw [honly]
  have hblkcnt : (firBank s).blkcnt = s.blkcnt := by rw [honly]
  have htrace : (firBank s).trace = s.trace := by rw [honly]
  refine ⟨_, exec_firb s, (keepsMemBut_firBank hrange).congr rfl rfl, readV_congr hv, hblkcnt,
    htrace, honly.results.keepsControl, fun f hf => ?_⟩
  refine (completes_firBank hlegal hcur).isIn_flags (fun ⟨ch, n, _, _, hraised⟩ => hf ?_)
    fun hdone => hf (by simp [hdone])
  have hmac := mem_macFlags_of_macFold hraised
  simp only [macFlags, List.mem_cons, List.not_mem_nil, or_false] at hmac ⊢
  tauto

end Sys2Proof.Machine

/-! ## The table-driven DFT (42_dft.md): the bins as their loop fills them, and the DC bin of a
constant block. -/

namespace Sys2Proof.Machine

/-! ### The frame of an effect that is only stores (R199) -/

theorem OnlyMem.keepsV {s t : State} (h : OnlyMem s t) : KeepsV s (complete t) :=
  readV_congr (by rw [h]; rfl)

theorem OnlyMem.keepsCounters {s t : State} (h : OnlyMem s t) : KeepsCounters s (complete t) := by
  rw [h]; exact ⟨rfl, rfl, rfl⟩

/-! ### One bin (R160, R161) -/

/-- The sum of a bin is the spec's loop over OUT and the table entries of R160. -/
theorem binSum_eq (s : State) (table : Config → Nat → Scaled) (k : Nat) :
    binSum s table k = macFold (fun n => readScaled s (outAddr n))
      (fun n => table s.cfg ((k * n * s.cfg.L / s.cfg.M) % s.cfg.L)) s.cfg.M :=
  accumulate_mulAdd _ _ _

section

variable (s t : State) (j k : Nat)

theorem writeBin_evt : (writeBin s t k).evt =
    t.evt ||| ((binSum s cosAt k).2 ||| (binSum s sinAt k).2) := by
  simp only [writeBin, raise_evt, writeScaled_evt]

/-- The real part of the bin that is written comes from its sum; the others stay. -/
theorem readScaled_writeBin_re : readScaled (writeBin s t k) (binReAddr j) =
    if j = k then (binSum s cosAt k).1 else readScaled t (binReAddr j) := by
  rw [writeBin, readScaled_raise,
    readScaled_writeScaled_apart _ _ (by simp only [binReAddr, binImAddr]; omega)]
  split
  · next h => rw [h, readScaled_writeScaled_same]
  · exact readScaled_writeScaled_apart _ _ (by simp only [binReAddr]; omega)

/-- The imaginary part of the bin that is written comes from its sum; the others stay. -/
theorem readScaled_writeBin_im : readScaled (writeBin s t k) (binImAddr j) =
    if j = k then (binSum s sinAt k).1 else readScaled t (binImAddr j) := by
  rw [writeBin, readScaled_raise]
  split
  · next h => rw [h, readScaled_writeScaled_same]
  · rw [readScaled_writeScaled_apart _ _ (by simp only [binImAddr]; omega),
      readScaled_writeScaled_apart _ _ (by simp only [binReAddr, binImAddr]; omega)]

end

/-! ### The loop over the bins (R161, R162) -/

/-- Of a DFT run from `s`, `t` is where the first `n` bins are written. -/
structure BinsAt (s : State) (n : Nat) (t : State) : Prop where
  re : ∀ k, k < n → readScaled t (binReAddr k) = (binSum s cosAt k).1
  im : ∀ k, k < n → readScaled t (binImAddr k) = (binSum s sinAt k).1
  evt : ∀ f : Flag, f.isIn t.evt = true ↔ f.isIn s.evt = true ∨
    ∃ k, k < n ∧ (f.isIn (binSum s cosAt k).2 = true ∨ f.isIn (binSum s sinAt k).2 = true)

theorem binsAt_start (s : State) : BinsAt s 0 s where
  re k hk := absurd hk (Nat.not_lt_zero k)
  im k hk := absurd hk (Nat.not_lt_zero k)
  evt := by simp

/-- A pass of the loop writes its bin, keeps those before it, and raises the flags of both sums. -/
theorem BinsAt.writeBin {s t : State} {n : Nat} (h : BinsAt s n t) :
    BinsAt s (n + 1) (writeBin s t n) where
  re k hk := by
    rw [readScaled_writeBin_re]
    split
    · next hkn => rw [hkn]
    · exact h.re k (by omega)
  im k hk := by
    rw [readScaled_writeBin_im]
    split
    · next hkn => rw [hkn]
    · exact h.im k (by omega)
  evt f := by
    rw [writeBin_evt, isIn_or_iff, isIn_or_iff, h.evt f, or_assoc, Nat.exists_lt_succ_right]

/-- The whole DFT: every bin is written. -/
theorem binsAt_dftBins (s : State) : BinsAt s (s.cfg.M / 2) (dftBins s) :=
  foldl_range_count (BinsAt s) _ _ _ (binsAt_start s) fun _ _ _ ht => ht.writeBin

/-- Settles O25: the loop with all its bins written, each sum in the spec's own form. -/
theorem dftWritesEveryBin : Obligations.DftWritesEveryBin := by
  intro s hMB
  have hbins := binsAt_dftBins s
  have honly := onlyMem_dftBins s
  have hread : ∀ a, readScaled (complete (dftBins s)) a = readScaled (dftBins s) a :=
    readScaled_congr (complete_mem _) (complete_memSeed _)
  simp only [← binSum_eq]
  exact ⟨complete (dftBins s), exec_of_wellFormed (i := .dft) (decide_eq_true hMB),
    fun k hk => ⟨(hread _).trans (hbins.re k hk), (hread _).trans (hbins.im k hk)⟩,
    completes_complete honly.results.flags_eq hbins.evt,
    (keepsMemBut_dftBins s).congr rfl rfl, honly.keepsV, honly.keepsCounters,
    honly.results.keepsControl⟩

/-! ### The sum of equal products (R163) -/

/-- Only the residue of a sum's first operand counts. -/
theorem wrap32_toInt_add (x y : Int) : wrap32 ((wrap32 x).toInt + y) = wrap32 (x + y) :=
  BitVec.eq_of_toInt_eq (by rw [wrap32_toInt, wrap32_toInt, wrap32_toInt, Int.bmod_add_bmod])

/-- At one scale sums collect in the mantissa, however often it wraps. -/
theorem add_wrap32_of_same_scale (y : Int) (p : Scaled) :
    (add ⟨wrap32 y, p.s⟩ p).1 = ⟨wrap32 (y + p.m.toInt), p.s⟩ := by
  rw [add_of_scale_eq (by rfl), wrap32_toInt_add]

theorem multiply_one (v : Scaled) : (multiply v (.ofInts 1 0)).1 = v := by
  have hone : (Scaled.ofInts 1 0).m.toInt = 1 := rfl
  have hscale : (Scaled.ofInts 1 0).s.toInt = 0 := rfl
  rw [multiply_of_fits (by rw [hone, Int.mul_one]; exact fits32_toInt v.m), hone, hscale,
    Int.mul_one, Int.add_zero, wrap32_of_toInt, wrap8, BitVec.ofInt_toInt]

theorem multiply_zero (v : Scaled) : (multiply v (.ofInts 0 0)).1 = ⟨0#32, v.s⟩ := by
  have hzero : (Scaled.ofInts 0 0).m.toInt = 0 := rfl
  have hscale : (Scaled.ofInts 0 0).s.toInt = 0 := rfl
  rw [multiply_of_fits (by rw [hzero, Int.mul_zero]; rfl), hzero, hscale, Int.mul_zero,
    Int.add_zero, wrap8, BitVec.ofInt_toInt]
  rfl

/-- The accumulator's start `{0, 0}` is neutral for the scales that need no skip: at scale 0 the
mantissas add, and below it the zero is aligned. -/
theorem zero_add_of_scale {x : Scaled} (hlo : -10 ≤ x.s.toInt) (hhi : x.s.toInt ≤ 0) :
    (add Scaled.zero x).1 = x := by
  have hm : Scaled.zero.m.toInt = 0 := rfl
  have hs : Scaled.zero.s.toInt = 0 := rfl
  rcases hhi.eq_or_lt with hsame | hbelow
  · have heq : Scaled.zero.s = x.s := BitVec.eq_of_toInt_eq (hs.trans hsame.symm)
    rw [add_of_scale_eq heq, hm, Int.zero_add, wrap32_of_toInt, heq]
  · have halign : alignedMant Scaled.zero x = 0 := by rw [alignedMant, hm, Int.zero_mul]
    rw [add_of_scale_gt (by omega), addAligned_of_near (by omega), halign, wrap32_toInt_add,
      Int.zero_add, wrap32_of_toInt]

/-- `n + 1` equal products add up at their own scale: the first replaces the `{0, 0}`, the others
meet an accumulator of their scale. -/
theorem macFold_of_equal_products {x c : Nat → Scaled} {p : Scaled} (hlo : -10 ≤ p.s.toInt)
    (hhi : p.s.toInt ≤ 0) {n : Nat} (hp : ∀ i, i < n + 1 → (multiply (x i) (c i)).1 = p) :
    (macFold x c (n + 1)).1 = ⟨wrap32 ((n + 1 : Nat) * p.m.toInt), p.s⟩ := by
  induction n with
  | zero =>
    rw [macFold, hp 0 (Nat.lt_succ_self 0), macFold, zero_add_of_scale hlo hhi]
    simp
  | succ n ih =>
    rw [macFold, hp (n + 1) (Nat.lt_succ_self _), ih fun i hi => hp i (by omega),
      add_wrap32_of_same_scale, ← add_one_mul, ← Nat.cast_succ]

/-- Bin 0 reads the table at index 0 alone (R160), so its sum over a constant block is one of equal
products. -/
theorem macFold_of_constant_block {s : State} {v : Scaled} {m : BitVec 32} (hM : 0 < s.cfg.M)
    (hconst : ∀ n, n < s.cfg.M → readScaled s (outAddr n) = v) {table : Config → Nat → Scaled}
    (hp : (multiply v (table s.cfg 0)).1 = ⟨m, v.s⟩) (hlo : -10 ≤ v.s.toInt)
    (hhi : v.s.toInt ≤ 0) :
    (macFold (fun n => readScaled s (outAddr n))
      (fun n => table s.cfg ((0 * n * s.cfg.L / s.cfg.M) % s.cfg.L)) s.cfg.M).1 =
      ⟨wrap32 (s.cfg.M * m.toInt), v.s⟩ := by
  obtain ⟨n, hn⟩ := Nat.exists_eq_succ_of_ne_zero hM.ne'
  have hindex : ∀ i, 0 * i * s.cfg.L / s.cfg.M % s.cfg.L = 0 := fun i => by simp
  simp only [hindex]
  rw [hn]
  exact macFold_of_equal_products (p := ⟨m, v.s⟩) hlo hhi fun i hi => by
    rw [hconst i (hn ▸ hi), hp]

/-- Settles O26: O25 at bin 0, whose products are `v` and `{0, s}`. -/
theorem dftOfAConstantBlockHasItsSumInBinZero :
    Obligations.DftOfAConstantBlockHasItsSumInBinZero := by
  intro s v hMB hM hconst hcos hsin hlo hhi hmin hmax
  obtain ⟨t, hexec, hbins, -⟩ := dftWritesEveryBin s hMB
  obtain ⟨hre, him⟩ := hbins 0 (by omega)
  rw [macFold_of_constant_block (by omega) hconst (hcos ▸ multiply_one v) hlo hhi] at hre
  rw [macFold_of_constant_block (by omega) hconst (hsin ▸ multiply_zero v) hlo hhi] at him
  refine ⟨t, hexec, ?_, by rw [hre], ?_⟩
  · rw [hre]
    exact wrap32_toInt_of_fits (fits32_iff_pow.2 ⟨hmin, hmax⟩)
  · rw [him, BitVec.toInt_zero, Int.mul_zero]
    rfl

end Sys2Proof.Machine

/-! ## The delay-and-sum beamformer (43_beamformer.md): the output samples as their loop fills them,
and the single active channel of R173. -/

namespace Sys2Proof.Machine

/-! ### One output sample (R170, R171) -/

/-- The model's running sum over the first channels is the spec's loop, which tests for omission
where the model tests for presence. -/
theorem accumulate_delayed (s : State) (i n : Nat) :
    accumulate n (fun acc ch =>
      if delayAt s.cfg ch ≤ i then
        add acc (readScaled s (streamAddr s.cfg ch (i - delayAt s.cfg ch)))
      else (acc, Flag.bfOmit.mask)) = beamFold s i n := by
  induction n with
  | zero => rfl
  | succ n ih =>
    rw [accumulate_succ, ih, beamFold]
    by_cases hpresent : delayAt s.cfg n ≤ i
    · rw [if_pos hpresent, if_neg hpresent.not_gt]
    · rw [if_neg hpresent, if_pos (not_le.1 hpresent)]

theorem beamSum_eq (s : State) (i : Nat) : beamSum s i = beamFold s i s.cfg.C :=
  accumulate_delayed s i s.cfg.C

section

variable (s t : State) (i j : Nat)

/-- The divided mantissa needs no wrap. -/
theorem beamOut_mantissa : (beamOut s i).1.m.toInt =
    (beamFold s i s.cfg.C).1.m.toInt.tdiv s.cfg.C := by
  rw [← beamSum_eq]
  exact wrap32_toInt_of_fits (fits32_tdiv _ (Int.natCast_nonneg _))

theorem beamOut_scale : (beamOut s i).1.s = (beamFold s i s.cfg.C).1.s := by
  rw [← beamSum_eq]; rfl

theorem isIn_beamOut_iff (f : Flag) : f.isIn (beamOut s i).2 = true ↔
    f.isIn (beamFold s i s.cfg.C).2 = true ∨
      (f = .bfDivloss ∧ (beamFold s i s.cfg.C).1.m.toInt.tdiv s.cfg.C * s.cfg.C ≠
        (beamFold s i s.cfg.C).1.m.toInt) := by
  rw [← beamSum_eq, beamOut, isIn_or_iff, isIn_flagIf_iff, decide_eq_true_iff]

theorem writeOut_evt : (writeOut s t i).evt = t.evt ||| (beamOut s i).2 := by
  simp only [writeOut, raise_evt, writeScaled_evt]

/-- The sample that is written is the beamformer's; the others stay. -/
theorem readScaled_writeOut : readScaled (writeOut s t i) (outAddr j) =
    if j = i then (beamOut s i).1 else readScaled t (outAddr j) := by
  rw [writeOut, readScaled_raise]
  split
  · next h => rw [h, readScaled_writeScaled_same]
  · exact readScaled_writeScaled_apart _ _ (by simp only [outAddr]; omega)

end

/-! ### The loop over the samples (R172) -/

/-- Of a BEAM run from `s`, `t` is where the first `n` samples are written. -/
structure OutsAt (s : State) (n : Nat) (t : State) : Prop where
  out : ∀ i, i < n → readScaled t (outAddr i) = (beamOut s i).1
  evt : ∀ f : Flag, f.isIn t.evt = true ↔ f.isIn s.evt = true ∨
    ∃ i, i < n ∧ f.isIn (beamOut s i).2 = true

theorem outsAt_start (s : State) : OutsAt s 0 s where
  out i hi := absurd hi (Nat.not_lt_zero i)
  evt := by simp

/-- A pass of the loop writes its sample, keeps those before it, and raises the sample's flags. -/
theorem OutsAt.writeOut {s t : State} {n : Nat} (h : OutsAt s n t) :
    OutsAt s (n + 1) (writeOut s t n) where
  out i hi := by
    rw [readScaled_writeOut]
    split
    · next hin => rw [hin]
    · exact h.out i (by omega)
  evt f := by
    rw [writeOut_evt, isIn_or_iff, h.evt f, or_assoc, Nat.exists_lt_succ_right]

/-- The whole BEAM: every sample is written. -/
theorem outsAt_beamAll (s : State) : OutsAt s s.cfg.B (beamAll s) :=
  foldl_range_count (OutsAt s) _ _ _ (outsAt_start s) fun _ _ _ ht => ht.writeOut

/-- Settles O27: the loop with all its samples written, each one in the spec's own terms. -/
theorem beamAveragesTheDelayedChannels : Obligations.BeamAveragesTheDelayedChannels := by
  intro s _
  have houts := outsAt_beamAll s
  have honly := onlyMem_beamAll s
  have hread : ∀ i, i < s.cfg.B →
      readScaled (complete (beamAll s)) (outAddr i) = (beamOut s i).1 := fun i hi =>
    (readScaled_congr (complete_mem _) (complete_memSeed _) _).trans (houts.out i hi)
  simp only [← isIn_beamOut_iff]
  simp only [← beamOut_mantissa, ← beamOut_scale]
  exact ⟨complete (beamAll s), exec_of_wellFormed rfl,
    fun i hi => ⟨by rw [hread i hi], by rw [hread i hi]⟩,
    completes_complete honly.results.flags_eq houts.evt,
    (keepsMemBut_beamAll s).congr rfl rfl, honly.keepsV, honly.keepsCounters,
    honly.results.keepsControl⟩

/-! ### Channels of one scale (R173) -/

section

variable {s : State} {i : Nat}

/-- A channel without delay is never omitted. -/
theorem beamFold_succ_of_no_delay {ch : Nat} (hdelay : delayAt s.cfg ch = 0) :
    (beamFold s i (ch + 1)).1 =
      (add (beamFold s i ch).1 (readScaled s (streamAddr s.cfg ch i))).1 := by
  rw [beamFold, hdelay, if_neg (Nat.not_lt_zero i), Nat.sub_zero]

/-- Without delays, channels of one scale add up at it: the first replaces the `{0, 0}`, the others
meet an accumulator of their scale. -/
theorem beamFold_of_same_scale {sc : BitVec 8} (hlo : -10 ≤ sc.toInt) (hhi : sc.toInt ≤ 0) {n : Nat}
    (hdelay : ∀ ch, ch < n + 1 → delayAt s.cfg ch = 0)
    (hscale : ∀ ch, ch < n + 1 → (readScaled s (streamAddr s.cfg ch i)).s = sc) :
    (beamFold s i (n + 1)).1 =
      ⟨wrap32 (∑ ch ∈ Finset.range (n + 1), (readScaled s (streamAddr s.cfg ch i)).m.toInt), sc⟩ := by
  induction n with
  | zero =>
    have hfirst := hscale 0 Nat.zero_lt_one
    rw [beamFold_succ_of_no_delay (hdelay 0 Nat.zero_lt_one), beamFold,
      zero_add_of_scale (hfirst ▸ hlo) (hfirst ▸ hhi), Finset.sum_range_one, wrap32_of_toInt,
      ← hfirst]
  | succ n ih =>
    have hlast := Nat.lt_succ_self (n + 1)
    rw [beamFold_succ_of_no_delay (hdelay _ hlast), ih (fun ch hch => hdelay ch (by omega))
      (fun ch hch => hscale ch (by omega)), ← hscale _ hlast, add_wrap32_of_same_scale,
      ← Finset.sum_range_succ]

end

/-- Settles O28: O27, with the sum of the mantissas that of the one active channel. -/
theorem beamWithZeroDelaysKeepsASingleChannel :
    Obligations.BeamWithZeroDelaysKeepsASingleChannel := by
  intro s i a hi ha hdelay hidle hlo hhi
  obtain ⟨t, hexec, houts, -⟩ := beamAveragesTheDelayedChannels s (by omega)
  obtain ⟨hmant, hsc⟩ := houts i hi
  have hscale : ∀ ch, ch < s.cfg.C → (readScaled s (streamAddr s.cfg ch i)).s =
      (readScaled s (streamAddr s.cfg a i)).s := fun ch hch => by
    by_cases hcha : ch = a
    · rw [hcha]
    · rw [hidle ch hch hcha]
  have hactive : ∑ ch ∈ Finset.range s.cfg.C, (readScaled s (streamAddr s.cfg ch i)).m.toInt =
      (readScaled s (streamAddr s.cfg a i)).m.toInt :=
    Finset.sum_eq_single_of_mem a (Finset.mem_range.2 ha) fun ch hch hcha => by
      rw [hidle ch (Finset.mem_range.1 hch) hcha, BitVec.toInt_zero]
  have hsum : (beamFold s i s.cfg.C).1 = readScaled s (streamAddr s.cfg a i) := by
    obtain ⟨n, hn⟩ := Nat.exists_eq_succ_of_ne_zero (Nat.ne_zero_of_lt ha)
    rw [hn] at hdelay hscale hactive ⊢
    rw [beamFold_of_same_scale hlo hhi hdelay hscale, hactive, wrap32_of_toInt]
  rw [hsum] at hmant hsc
  exact ⟨t, hexec, hmant, hsc⟩

end Sys2Proof.Machine

/-! ## Conversion and delivery (44_pipeline.md rules R180 to R186): STREAM as the conversion fills it,
and the words delivered. -/

namespace Sys2Proof.Machine

/-! ### One entry of the conversion (R180) -/

/-- The flags of an entry's conversion: CONV_WRAP, when the product does not fit. -/
theorem isIn_convOne_iff (s : State) (ch n : Nat) (f : Flag) :
    f.isIn (convOne s ch n).2 = true ↔ f = .convWrap ∧
      ¬(-2 ^ 31 ≤ ((readRaw s ch n : Int) - s.cfg.dcOffset) * 10 ^ s.cfg.dec ∧
        ((readRaw s ch n : Int) - s.cfg.dcOffset) * 10 ^ s.cfg.dec ≤ 2 ^ 31 - 1) := by
  rw [convOne, fromInteger_eq]
  exact isIn_flagIf_not_fits32

section

variable (s t : State) (ch n : Nat)

theorem convEntry_evt : (convEntry s ch t n).evt = t.evt ||| (convOne s ch n).2 := by
  simp only [convEntry, raise_evt, writeScaled_evt]

variable {n}

/-- The entry that is written is its converted code; the others stay. -/
theorem readScaled_convEntry {m : Nat} (ch' : Nat) (hn : n < s.cfg.B) (hm : m < s.cfg.B) :
    readScaled (convEntry s ch t n) (streamAddr s.cfg ch' m) =
      if ch' = ch ∧ m = n then (convOne s ch n).1 else readScaled t (streamAddr s.cfg ch' m) := by
  rw [convEntry, readScaled_raise, readScaled_writeScaled_stream t hn hm]

end

/-! ### The loops over channels and samples (R180) -/

/-- Of a conversion run from `s`, `t` is where the first `e` entries of STREAM are written, counted
channel by channel. -/
structure ConvAt (s : State) (e : Nat) (t : State) : Prop where
  stream : ∀ ch n, n < s.cfg.B → ch * s.cfg.B + n < e →
    readScaled t (streamAddr s.cfg ch n) = (convOne s ch n).1
  evt : ∀ f : Flag, f.isIn t.evt = true ↔ f.isIn s.evt = true ∨
    ∃ ch n, n < s.cfg.B ∧ ch * s.cfg.B + n < e ∧ f.isIn (convOne s ch n).2 = true

theorem convAt_start (s : State) : ConvAt s 0 s where
  stream _ _ _ he := absurd he (Nat.not_lt_zero _)
  evt := by simp

/-- A pass of the loop writes its entry, keeps those before it, and raises the entry's flags. -/
theorem ConvAt.convEntry {s t : State} {ch n : Nat} (h : ConvAt s (ch * s.cfg.B + n) t)
    (hn : n < s.cfg.B) : ConvAt s (ch * s.cfg.B + (n + 1)) (convEntry s ch t n) where
  stream c m hm he := by
    rw [readScaled_convEntry s t ch c hn hm]
    split
    · next hnow => rw [hnow.1, hnow.2]
    · next hnow =>
      rw [← entryIndex_inj hn hm] at hnow
      exact h.stream c m hm (by omega)
  evt f := by
    rw [convEntry_evt, isIn_or_iff, h.evt f]
    constructor
    · rintro ((hs | ⟨c, m, hm, he, hf⟩) | hf)
      · exact .inl hs
      · exact .inr ⟨c, m, hm, by omega, hf⟩
      · exact .inr ⟨ch, n, hn, by omega, hf⟩
    · rintro (hs | ⟨c, m, hm, he, hf⟩)
      · exact .inl (.inl hs)
      · by_cases hnow : c * s.cfg.B + m = ch * s.cfg.B + n
        · obtain ⟨rfl, rfl⟩ := (entryIndex_inj hn hm).1 hnow
          exact .inr hf
        · exact .inl (.inr ⟨c, m, hm, by omega, hf⟩)

theorem ConvAt.convChannel {s t : State} {ch : Nat} (h : ConvAt s (ch * s.cfg.B) t) :
    ConvAt s ((ch + 1) * s.cfg.B) (convChannel s t ch) := by
  rw [Nat.succ_mul]
  exact foldl_range_count (fun n => ConvAt s (ch * s.cfg.B + n)) _ _ _ h
    fun _ _ hn hu => hu.convEntry hn

/-- The whole conversion: every entry is written. -/
theorem convAt_convertAll (s : State) : ConvAt s (s.cfg.C * s.cfg.B) (convertAll s) :=
  foldl_range_count (fun ch => ConvAt s (ch * s.cfg.B)) _ _ _
    ((Nat.zero_mul s.cfg.B).symm ▸ convAt_start s) fun _ _ _ ht => ht.convChannel

/-- The entry numbers of STREAM are those of its channels and samples. -/
theorem entryIndex_lt_iff {ch n C B : Nat} (hn : n < B) : ch * B + n < C * B ↔ ch < C :=
  ⟨fun h => Nat.lt_of_mul_lt_mul_right (Nat.lt_of_le_of_lt (Nat.le_add_right _ n) h),
    fun hch => entryIndex_lt hch hn⟩

/-- The flags of the conversion are those of its entries. -/
theorem isIn_evt_convertAll (s : State) (f : Flag) :
    f.isIn (convertAll s).evt = true ↔ f.isIn s.evt = true ∨
      ∃ ch n, ch < s.cfg.C ∧ n < s.cfg.B ∧ f.isIn (convOne s ch n).2 = true := by
  rw [(convAt_convertAll s).evt f]
  refine or_congr_right (exists_congr fun ch => exists_congr fun n => ?_)
  rw [and_left_comm]
  exact and_congr_left fun ⟨hn, _⟩ => entryIndex_lt_iff hn

theorem exec_conv (s : State) : exec .conv s = .next (complete (convertAll s)) :=
  exec_of_wellFormed rfl

/-- Settles O29: the loops with all their entries written, each by the rule of R110. -/
theorem convConvertsEveryCode : Obligations.ConvConvertsEveryCode := by
  intro s hlegal
  obtain ⟨-, -, -, -, -, -, -, hdec, -⟩ := hlegal
  have honly := onlyMem_convertAll s
  have hread : ∀ ch n, ch < s.cfg.C → n < s.cfg.B →
      readScaled (complete (convertAll s)) (streamAddr s.cfg ch n) = (convOne s ch n).1 :=
    fun ch n hch hn => (readScaled_congr (complete_mem _) (complete_memSeed _) _).trans
      ((convAt_convertAll s).stream ch n hn (entryIndex_lt hch hn))
  refine ⟨complete (convertAll s), exec_conv s, fun ch n hch hn => ?_,
    completes_complete honly.results.flags_eq fun f => ?_,
    (keepsMemBut_convertAll s).congr rfl rfl, honly.keepsV, honly.keepsCounters,
    honly.results.keepsControl⟩
  · obtain ⟨hmant, hscale, -⟩ :=
      fromIntegerFollowsItsRule ((readRaw s ch n : Int) - s.cfg.dcOffset) s.cfg.dec hdec
    rw [hread ch n hch hn]
    exact ⟨hmant, hscale⟩
  · simp only [isIn_evt_convertAll, isIn_convOne_iff, and_left_comm (b := f = .convWrap),
      exists_and_left]

/-! ### Delivery (R184) -/

/-- The words of a delivery, in bin order. -/
def binWords (s : State) : List Emitted := (List.range (s.cfg.M / 2)).map (binWord s)

theorem deliverBins_trace (s : State) : (deliverBins s).trace = s.trace ++ binWords s := rfl

theorem length_binWords (s : State) : (binWords s).length = s.cfg.M / 2 := by simp [binWords]

/-- The word of each bin stands at the bin's number, and the last one is marked. -/
theorem getElem?_binWords (s : State) {k : Nat} (hk : k < s.cfg.M / 2) :
    (binWords s)[k]? = some
      ⟨Config.binReduce (readScaled s (binReAddr k)) (readScaled s (binImAddr k)),
        decide (k = s.cfg.M / 2 - 1)⟩ := by
  have hlast : k + 1 = s.cfg.M / 2 ↔ k = s.cfg.M / 2 - 1 := by omega
  rw [binWords, List.getElem?_map, List.getElem?_range hk, Option.map_some, binWord,
    decide_eq_decide.2 hlast]

/-- The words depend on the configuration and the memory alone. -/
theorem binWords_congr {s t : State} (hcfg : t.cfg = s.cfg) (hmem : t.mem = s.mem)
    (hseed : t.memSeed = s.memSeed) : binWords t = binWords s := by
  have hword : binWord t = binWord s := by
    funext k
    simp only [binWord, hcfg, readScaled_congr hmem hseed]
  rw [binWords, binWords, hcfg, hword]

theorem exec_deliver (s : State) : exec .deliver s = .next (complete (deliverBins s)) :=
  exec_of_wellFormed rfl

/-- Settles O30: delivery appends `binWords` to the trace and does nothing else. -/
theorem deliverEmitsEveryBinInOrder : Obligations.DeliverEmitsEveryBinInOrder := fun s =>
  ⟨complete (deliverBins s), binWords s, exec_deliver s, deliverBins_trace s,
    length_binWords s, fun _ => getElem?_binWords s, completes_complete rfl (by simp [deliverBins]),
    readV_congr rfl, readByte_congr rfl rfl, rfl, rfl, (onlyResults_deliverBins s).keepsControl⟩

/-! ### NOP (R186) -/

/-- Settles O18: NOP is completion alone. -/
theorem nopOnlyCompletes : Obligations.NopOnlyCompletes := fun s =>
  ⟨complete s, exec_of_wellFormed rfl, completes_complete rfl (by simp), readV_congr rfl,
    readByte_congr rfl rfl, ⟨rfl, rfl, rfl⟩, (onlyResults_refl s).keepsControl⟩

end Sys2Proof.Machine

/-! ## The block procedure (R182, R183): its flags, its write set, what it counts and
delivers. -/

namespace Sys2Proof.Machine

/-! ### The flags a block can raise (R110, R112, R114, R170, R171) -/

/-- The flags of conversion, filtering, beamforming and transform. -/
def blockFlags : List Flag := macFlags ++ [.convWrap, .bfOmit, .bfDivloss]

theorem mem_blockFlags_of_mac {f : Flag} (h : f ∈ macFlags) : f ∈ blockFlags :=
  List.mem_append_left _ h

theorem mem_blockFlags_of_convOne {f : Flag} {s : State} {ch n : Nat}
    (h : f.isIn (convOne s ch n).2 = true) : f ∈ blockFlags := by
  obtain ⟨rfl, -⟩ := (isIn_convOne_iff s ch n f).1 h
  decide

theorem mem_blockFlags_of_beamFold {f : Flag} {s : State} {i n : Nat}
    (h : f.isIn (beamFold s i n).2 = true) : f ∈ blockFlags := by
  induction n with
  | zero => rw [beamFold, isIn_zero] at h; cases h
  | succ n ih =>
    rw [beamFold] at h
    split at h <;> rw [isIn_or_iff] at h
    · rcases h with h | h
      · exact ih h
      · rw [isIn_mask_iff.1 h]; decide
    · exact h.elim ih fun h => mem_blockFlags_of_mac (mem_macFlags_of_add h)

theorem mem_blockFlags_of_beamOut {f : Flag} {s : State} {i : Nat}
    (h : f.isIn (beamOut s i).2 = true) : f ∈ blockFlags := by
  rcases (isIn_beamOut_iff s i f).1 h with h | ⟨rfl, -⟩
  · exact mem_blockFlags_of_beamFold h
  · decide

theorem mem_blockFlags_of_binSum {f : Flag} {s : State} {table : Config → Nat → Scaled} {k : Nat}
    (h : f.isIn (binSum s table k).2 = true) : f ∈ blockFlags := by
  rw [binSum_eq] at h
  exact mem_blockFlags_of_mac (mem_macFlags_of_macFold h)

/-- EVT gains block flags alone. -/
def RaisesBlockFlags (s t : State) : Prop :=
  ∀ f : Flag, f ∉ blockFlags → f.isIn t.evt = f.isIn s.evt

theorem RaisesBlockFlags.trans {s t u : State} (h1 : RaisesBlockFlags s t)
    (h2 : RaisesBlockFlags t u) : RaisesBlockFlags s u :=
  fun f hf => (h2 f hf).trans (h1 f hf)

theorem raisesBlockFlags_of_evt {s t : State} {raised : Flag → Prop}
    (hevt : ∀ f : Flag, f.isIn t.evt = true ↔ f.isIn s.evt = true ∨ raised f)
    (hraised : ∀ f, raised f → f ∈ blockFlags) : RaisesBlockFlags s t := fun f hf => by
  rw [Bool.eq_iff_iff, hevt f, or_iff_left fun h => hf (hraised f h)]

theorem raisesBlockFlags_convertAll (s : State) : RaisesBlockFlags s (convertAll s) :=
  raisesBlockFlags_of_evt (isIn_evt_convertAll s) fun _ ⟨_, _, _, _, h⟩ =>
    mem_blockFlags_of_convOne h

theorem raisesBlockFlags_firBank {s : State} (hlegal : s.cfg.Legal)
    (hcur : s.cursor.toNat < s.cfg.T) : RaisesBlockFlags s (firBank s) :=
  raisesBlockFlags_of_evt (bankAtSample_firBank hlegal hcur).evt fun _ ⟨_, _, _, _, h⟩ =>
    mem_blockFlags_of_mac (mem_macFlags_of_macFold h)

theorem raisesBlockFlags_beamAll (s : State) : RaisesBlockFlags s (beamAll s) :=
  raisesBlockFlags_of_evt (outsAt_beamAll s).evt fun _ ⟨_, _, h⟩ => mem_blockFlags_of_beamOut h

theorem raisesBlockFlags_dftBins (s : State) : RaisesBlockFlags s (dftBins s) :=
  raisesBlockFlags_of_evt (binsAt_dftBins s).evt fun _ ⟨_, _, h⟩ =>
    h.elim mem_blockFlags_of_binSum mem_blockFlags_of_binSum

/-! ### Transform and delivery (R182, step 4) -/

theorem transformAndDeliver_of_ge {s : State} (h : s.cfg.M ≤ s.cfg.B) :
    transformAndDeliver s = deliverBins (dftBins s) := if_pos h

theorem transformAndDeliver_of_lt {s : State} (h : s.cfg.B < s.cfg.M) :
    transformAndDeliver s = s := if_neg h.not_ge

theorem raisesBlockFlags_transformAndDeliver (s : State) :
    RaisesBlockFlags s (transformAndDeliver s) := by
  rcases Nat.lt_or_ge s.cfg.B s.cfg.M with h | h
  · rw [transformAndDeliver_of_lt h]
    exact fun _ _ => rfl
  · rw [transformAndDeliver_of_ge h]
    exact raisesBlockFlags_dftBins s

theorem keepsMemBut_transformAndDeliver (s : State) :
    KeepsMemBut (fun a => s.cfg.M ≤ s.cfg.B ∧ BinBytes s.cfg a) s (transformAndDeliver s) := by
  rcases Nat.lt_or_ge s.cfg.B s.cfg.M with h | h
  · rw [transformAndDeliver_of_lt h]
    exact keepsMemBut_refl s _
  · rw [transformAndDeliver_of_ge h]
    exact ((keepsMemBut_dftBins s).mono fun _ ha => ⟨h, ha⟩).congr rfl rfl

/-- Delivery leaves the bins it delivers. -/
theorem binWords_deliverBins (s : State) : binWords (deliverBins s) = binWords s :=
  binWords_congr rfl rfl rfl

/-- The trace gains the words of the bins as they then stand, if the bins are computed at all. -/
theorem transformAndDeliver_trace (s : State) : (transformAndDeliver s).trace =
    s.trace ++ if s.cfg.M ≤ s.cfg.B then binWords (transformAndDeliver s) else [] := by
  split
  · next h =>
    have htrace : (dftBins s).trace = s.trace := by rw [onlyMem_dftBins s]
    rw [transformAndDeliver_of_ge h, deliverBins_trace, htrace, binWords_deliverBins]
  · next h => rw [transformAndDeliver_of_lt (not_le.1 h), List.append_nil]

/-- Only memory, EVT and the consumer trace differ. -/
def OnlyMemTrace (s t : State) : Prop :=
  t = { s with mem := t.mem, evt := t.evt, trace := t.trace }

theorem OnlyMem.deliverBins {s t : State} (h : OnlyMem s t) : OnlyMemTrace s (deliverBins t) := by
  have htrace : Machine.deliverBins t = { t with trace := (Machine.deliverBins t).trace } := rfl
  rw [OnlyMemTrace, htrace]
  generalize (Machine.deliverBins t).trace = ws
  conv_lhs => rw [h]

theorem onlyMemTrace_transformAndDeliver (s : State) : OnlyMemTrace s (transformAndDeliver s) := by
  rcases Nat.lt_or_ge s.cfg.B s.cfg.M with h | h
  · rw [transformAndDeliver_of_lt h]
    rfl
  · rw [transformAndDeliver_of_ge h]
    exact (onlyMem_dftBins s).deliverBins

/-! ### The steps before the transform (R182, steps 1 to 3) -/

/-- The block once OUT is computed. -/
def beamformed (s : State) : State := beamAll (firBank (convertAll s))

theorem blockProcess_eq (s : State) :
    blockProcess s = countBlock (transformAndDeliver (beamformed s)) := rfl

theorem onlyMemCursor_beamformed (s : State) : OnlyMemCursor s (beamformed s) :=
  ((onlyMem_convertAll s).cursor.trans (onlyMemCursor_firBank _)).trans (onlyMem_beamAll _).cursor

theorem beamformed_cfg (s : State) : (beamformed s).cfg = s.cfg :=
  (onlyMemCursor_beamformed s).results.cfg_eq

theorem convertAll_cfg (s : State) : (convertAll s).cfg = s.cfg :=
  (onlyMem_convertAll s).results.cfg_eq

theorem convertAll_cursor (s : State) : (convertAll s).cursor = s.cursor :=
  (onlyMem_convertAll s).cursor_eq

theorem firBank_cfg (s : State) : (firBank s).cfg = s.cfg :=
  (onlyMemCursor_firBank s).results.cfg_eq

section

variable {s : State} (hlegal : s.cfg.Legal) (hcur : s.cursor.toNat < s.cfg.T)
include hlegal hcur

theorem toNat_beamformed_cursor :
    (beamformed s).cursor.toNat = (s.cursor.toNat + s.cfg.B) % s.cfg.T := by
  have hbank := bankAtSample_firBank (s := convertAll s) (by rwa [convertAll_cfg])
    (by rwa [convertAll_cfg, convertAll_cursor])
  rw [beamformed, (onlyMem_beamAll _).cursor_eq, hbank.cursor, convertAll_cfg, convertAll_cursor]

theorem raisesBlockFlags_beamformed : RaisesBlockFlags s (beamformed s) :=
  ((raisesBlockFlags_convertAll s).trans
    (raisesBlockFlags_firBank (by rwa [convertAll_cfg])
      (by rwa [convertAll_cfg, convertAll_cursor]))).trans (raisesBlockFlags_beamAll _)

end

/-- The bytes a block may store (R183). -/
def BlockBytes (cfg : Config) (a : Nat) : Prop :=
  StreamBytes cfg a ∨ DlBytes cfg a ∨ OutBytes cfg a ∨ (cfg.M ≤ cfg.B ∧ BinBytes cfg a)

theorem keepsMemBut_beamformed {s : State} (hcur : CursorInRange s) :
    KeepsMemBut (BlockBytes s.cfg) s (beamformed s) := by
  have hconv := (keepsMemBut_convertAll s).mono (more := BlockBytes s.cfg) fun _ ha => .inl ha
  have hfir := (keepsMemBut_firBank ((onlyMem_convertAll s).cursorInRange hcur)).mono
    (more := BlockBytes s.cfg) fun a ha => by
      rw [convertAll_cfg] at ha
      exact ha.imp_right .inl
  have hbeam := (keepsMemBut_beamAll (firBank (convertAll s))).mono
    (more := BlockBytes s.cfg) fun a ha => by
      rw [firBank_cfg, convertAll_cfg] at ha
      exact .inr (.inr (.inl ha))
  exact (hconv.trans hfir).trans hbeam

/-! ### BLOCK (R183) -/

theorem exec_block (s : State) : exec .block s = .next (complete (blockProcess s)) :=
  exec_of_wellFormed rfl

theorem keepsMemBut_blockProcess {s : State} (hcur : CursorInRange s) :
    KeepsMemBut (BlockBytes s.cfg) s (blockProcess s) := by
  have hlast := (keepsMemBut_transformAndDeliver (beamformed s)).mono (more := BlockBytes s.cfg)
    fun a ha => by
      rw [beamformed_cfg] at ha
      exact .inr (.inr (.inr ha))
  exact ((keepsMemBut_beamformed hcur).trans hlast).congr (countBlock_mem _) (countBlock_memSeed _)

/-- The words a block delivers are those of the bins it leaves. -/
theorem blockProcess_trace (s : State) : (blockProcess s).trace =
    s.trace ++ if s.cfg.M ≤ s.cfg.B then binWords (blockProcess s) else [] := by
  have htrace : (beamformed s).trace = s.trace := by rw [onlyMemCursor_beamformed s]
  have hwords : binWords (blockProcess s) = binWords (transformAndDeliver (beamformed s)) :=
    binWords_congr (countBlock_cfg _) (countBlock_mem _) (countBlock_memSeed _)
  rw [hwords, blockProcess_eq, countBlock_trace, transformAndDeliver_trace, htrace, beamformed_cfg]

theorem raisesBlockFlags_blockProcess {s : State} (hlegal : s.cfg.Legal)
    (hcur : s.cursor.toNat < s.cfg.T) : RaisesBlockFlags s (blockProcess s) := by
  have hlast := raisesBlockFlags_transformAndDeliver (beamformed s)
  intro f hf
  rw [blockProcess_eq, countBlock_evt, hlast f hf, raisesBlockFlags_beamformed hlegal hcur f hf]

theorem blockProcess_v (s : State) : (blockProcess s).v = s.v := by
  rw [blockProcess_eq, countBlock_v, onlyMemTrace_transformAndDeliver (beamformed s),
    onlyMemCursor_beamformed s]

theorem blockProcess_blkcnt (s : State) : (blockProcess s).blkcnt = s.blkcnt + 1 := by
  rw [blockProcess_eq, countBlock_blkcnt, onlyMemTrace_transformAndDeliver (beamformed s),
    onlyMemCursor_beamformed s]

theorem blockProcess_cursor (s : State) : (blockProcess s).cursor = (beamformed s).cursor := by
  rw [blockProcess_eq, countBlock_cursor, onlyMemTrace_transformAndDeliver (beamformed s)]

/-- Settles O31: the frames of the block's steps, one after the other. -/
theorem blockCompletesWithinItsWriteSet : Obligations.BlockCompletesWithinItsWriteSet := by
  intro s hlegal hcur
  have hrange : CursorInRange s := by obtain ⟨-, -, -, hT, -⟩ := hlegal; exact ⟨hT, hcur⟩
  have hresults := onlyResults_blockProcess s
  have htrace := blockProcess_trace s
  refine ⟨complete (blockProcess s), exec_block s,
    (complete_blkcnt _).trans (blockProcess_blkcnt s), ?cursor,
    (keepsMemBut_blockProcess hrange).congr (complete_mem _) (complete_memSeed _), ?silent,
    ?delivered, readV_congr ((complete_v _).trans (blockProcess_v s)), hresults.keepsControl, rfl,
    ?done, ?flags⟩
  case cursor => rw [complete_cursor, blockProcess_cursor, toNat_beamformed_cursor hlegal hcur]
  case silent =>
    intro h
    rw [complete_trace, htrace, if_neg h.not_ge, List.append_nil]
  case delivered =>
    intro h
    have hcfg : (complete (blockProcess s)).cfg = s.cfg :=
      (complete_cfg _).trans hresults.cfg_eq
    have hwords : binWords (complete (blockProcess s)) = binWords (blockProcess s) :=
      binWords_congr (complete_cfg _) (complete_mem _) (complete_memSeed _)
    rw [if_pos h, ← hwords] at htrace
    rw [← hcfg]
    exact ⟨_, (complete_trace _).trans htrace, length_binWords _,
      fun _ => getElem?_binWords (complete (blockProcess s))⟩
  case done => simp
  case flags =>
    intro f hf
    have hevt : f.isIn (blockProcess s).evt = f.isIn s.evt :=
      raisesBlockFlags_blockProcess hlegal hcur f fun h => hf (List.mem_append_left [Flag.done] h)
    have hdone : f ≠ .done := fun h => hf (by simp [h])
    simp [hresults.flags_eq, hevt, hdone]

end Sys2Proof.Machine

/-! ## BLOCK as CONV, FIRB, BEAM, DFT and DELIVER issued one after the other (R182, R225). -/

namespace Sys2Proof.Machine

/-! ### Operations that take no notice of a completion before them -/

/-- A state with another STATUS and sequencer state, which is all that a completion changes. -/
def withEnd (s : State) (fl : Flags) (m : Fsm) : State := { s with flags := fl, fsm := m }

@[simp] theorem withEnd_cfg (s : State) (fl : Flags) (m : Fsm) : (withEnd s fl m).cfg = s.cfg := rfl

@[simp] theorem withEnd_cursor (s : State) (fl : Flags) (m : Fsm) :
    (withEnd s fl m).cursor = s.cursor := rfl

theorem complete_eq_withEnd (s : State) :
    complete s = withEnd s (s.flags ||| s.evt ||| Flag.done.mask) .idle := rfl

/-- The operation neither reads nor writes STATUS and the sequencer's state, and EVT only grows. -/
structure IgnoresEnd (f : State → State) : Prop where
  commutes : ∀ s fl m, f (withEnd s fl m) = withEnd (f s) fl m
  evt_grows : ∀ (s : State) (g : Flag), g.isIn s.evt = true → g.isIn (f s).evt = true

theorem IgnoresEnd.flags_eq {f : State → State} (h : IgnoresEnd f) (s : State) :
    (f s).flags = s.flags := by
  have hsame : f s = withEnd (f s) s.flags s.fsm := h.commutes s s.flags s.fsm
  rw [hsame, withEnd]

/-- A completion before such an operation leaves no trace after the completion that follows it:
STATUS then has the flags of both from EVT, which keeps them (assumption 14). -/
theorem IgnoresEnd.complete_complete {f : State → State} (h : IgnoresEnd f) (s : State) :
    complete (f (complete s)) = complete (f s) := by
  have hflags : s.flags ||| s.evt ||| Flag.done.mask ||| (f s).evt ||| Flag.done.mask =
      s.flags ||| (f s).evt ||| Flag.done.mask := flags_ext fun g => by
    have hgrows := h.evt_grows s g
    simp only [isIn_or]
    cases hg : g.isIn s.evt
    · simp [Bool.or_assoc, Bool.or_comm]
    · simp [hgrows hg]
  rw [complete_eq_withEnd s, h.commutes, complete_eq_withEnd (f s), h.flags_eq, ← hflags]
  rfl

/-! ### The steps of a block are such operations -/

section

variable (s t : State) (fl : Flags) (m : Fsm)

theorem readScaled_withEnd (a : Nat) : readScaled (withEnd s fl m) a = readScaled s a :=
  readScaled_congr rfl rfl a

theorem writeScaled_withEnd (a : Nat) (x : Scaled) :
    writeScaled (withEnd s fl m) a x = withEnd (writeScaled s a x) fl m := rfl

theorem raise_withEnd (fs : Flags) : (withEnd s fl m).raise fs = withEnd (s.raise fs) fl m := rfl

theorem pushSample_withEnd (n ch : Nat) :
    pushSample n (withEnd s fl m) ch = withEnd (pushSample n s ch) fl m := by
  simp only [pushSample, pushDl, readScaled_withEnd, writeScaled_withEnd, withEnd_cfg,
    withEnd_cursor]

theorem tapSum_withEnd (ch : Nat) : tapSum (withEnd s fl m) ch = tapSum s ch := by
  simp only [tapSum, tapIndex, readScaled_withEnd, withEnd_cfg, withEnd_cursor]

theorem firStream_withEnd (n ch : Nat) :
    firStream n (withEnd s fl m) ch = withEnd (firStream n s ch) fl m := by
  simp only [firStream_eq, pushSample_withEnd, tapSum_withEnd, raise_withEnd, writeScaled_withEnd,
    withEnd_cfg]

theorem firSample_withEnd (n : Nat) :
    firSample (withEnd s fl m) n = withEnd (firSample s n) fl m :=
  congrArg cursorAdvance
    (List.foldl_hom (fun t => withEnd t fl m) fun t ch => firStream_withEnd t fl m n ch)

theorem beamSum_withEnd (i : Nat) : beamSum (withEnd s fl m) i = beamSum s i := by
  simp only [beamSum, readScaled_withEnd, withEnd_cfg]

theorem beamOut_withEnd (i : Nat) : beamOut (withEnd s fl m) i = beamOut s i := by
  rw [beamOut, beamSum_withEnd, withEnd_cfg, beamOut]

theorem writeOut_withEnd (i : Nat) :
    writeOut (withEnd s fl m) (withEnd t fl m) i = withEnd (writeOut s t i) fl m := by
  rw [writeOut, beamOut_withEnd, writeScaled_withEnd, raise_withEnd, writeOut]

theorem writeBin_withEnd (k : Nat) :
    writeBin (withEnd s fl m) (withEnd t fl m) k = withEnd (writeBin s t k) fl m := by
  simp only [writeBin, binSum, readScaled_withEnd, writeScaled_withEnd, raise_withEnd, withEnd_cfg]

end

/-- The bank's sums only add flags to EVT, in whatever state it starts. -/
theorem evt_grows_firBank (s : State) (g : Flag) (h : g.isIn s.evt = true) :
    g.isIn (firBank s).evt = true :=
  foldl_range_inv (fun t : State => g.isIn t.evt = true) _ _ _ h fun t n _ ht =>
    foldl_range_inv (fun u : State => g.isIn u.evt = true) (firStream n) t.cfg.C t ht
      fun u ch _ hu => by rw [firStream_evt, isIn_or, hu, Bool.true_or]

theorem ignoresEnd_firBank : IgnoresEnd firBank where
  commutes _ fl m := List.foldl_hom (fun t => withEnd t fl m) fun t n => firSample_withEnd t fl m n
  evt_grows := evt_grows_firBank

theorem ignoresEnd_beamAll : IgnoresEnd beamAll where
  commutes s fl m := List.foldl_hom (fun t => withEnd t fl m) fun t i => writeOut_withEnd s t fl m i
  evt_grows s g h := ((outsAt_beamAll s).evt g).2 (.inl h)

theorem ignoresEnd_dftBins : IgnoresEnd dftBins where
  commutes s fl m := List.foldl_hom (fun t => withEnd t fl m) fun t k => writeBin_withEnd s t fl m k
  evt_grows s g h := ((binsAt_dftBins s).evt g).2 (.inl h)

theorem ignoresEnd_deliverBins : IgnoresEnd deliverBins where
  commutes _ _ _ := rfl
  evt_grows _ _ h := h

/-! ### The commands of a block, one after the other -/

theorem exec_beam (s : State) : exec .beam s = .next (complete (beamAll s)) :=
  exec_of_wellFormed rfl

theorem exec_dft {s : State} (hMB : s.cfg.M ≤ s.cfg.B) :
    exec .dft s = .next (complete (dftBins s)) :=
  exec_of_wellFormed (i := .dft) (decide_eq_true hMB)

/-- CONV, FIRB and BEAM end where the block stands before its transform, completed. -/
theorem exec_conv_firb_beam {s t1 t2 t3 : State} (h1 : exec .conv s = .next t1)
    (h2 : exec .firb t1 = .next t2) (h3 : exec .beam t2 = .next t3) :
    t3 = complete (beamformed s) := by
  rw [exec_conv] at h1
  cases h1
  rw [exec_firb, ignoresEnd_firBank.complete_complete] at h2
  cases h2
  rw [exec_beam, ignoresEnd_beamAll.complete_complete] at h3
  cases h3
  rw [beamformed]

/-- DFT and DELIVER after a completion end as the block's last step does. -/
theorem exec_dft_deliver {u t4 t5 : State} (hMB : u.cfg.M ≤ u.cfg.B)
    (h4 : exec .dft (complete u) = .next t4) (h5 : exec .deliver t4 = .next t5) :
    t5 = complete (transformAndDeliver u) := by
  rw [exec_dft (s := complete u) hMB, ignoresEnd_dftBins.complete_complete] at h4
  cases h4
  rw [exec_deliver, ignoresEnd_deliverBins.complete_complete] at h5
  cases h5
  rw [transformAndDeliver_of_ge hMB]

/-- What BLOCK adds to its steps is the count. -/
theorem exec_block_eq (s : State) : exec .block s =
    .next { complete (transformAndDeliver (beamformed s)) with blkcnt := s.blkcnt + 1 } := by
  have hblkcnt : (transformAndDeliver (beamformed s)).blkcnt = s.blkcnt := by
    rw [onlyMemTrace_transformAndDeliver (beamformed s), onlyMemCursor_beamformed s]
  have hcount : ∀ u : State,
      complete (countBlock u) = { complete u with blkcnt := u.blkcnt + 1 } := fun _ => rfl
  rw [exec_block, blockProcess_eq, hcount, hblkcnt]

/-- Settles O32: every completion but the last is lost in the one after it. -/
theorem blockEqualsItsStepsIssuedOneByOne : Obligations.BlockEqualsItsStepsIssuedOneByOne := by
  intro s t1 t2 t3 h1 h2 h3
  have ht3 := exec_conv_firb_beam h1 h2 h3
  rw [exec_block_eq, ← beamformed_cfg s]
  refine ⟨fun t4 t5 hMB h4 h5 => ?_, fun hBM => ?_⟩
  · rw [exec_dft_deliver hMB (ht3 ▸ h4) h5]
  · rw [ht3, transformAndDeliver_of_lt hBM]

end Sys2Proof.Machine

/-! ## The agents' steps (44_pipeline.md rules R188 to R201): the producer's events, the taking of a
command, the sequencer's turns, and how it comes to rest. -/

namespace Sys2Proof.Machine

/-! ### The producer (R191, R192, R193) -/

/-- A stored producer word changes memory alone, at the four bytes of its entry. -/
theorem writeRaw_stored (s : State) (e : Nat) (w : Word) :
    ∃ t, writeRaw s (rawBase + 4 * e) w = t ∧ t = { s with mem := t.mem } ∧
      readRaw t (e / s.cfg.B) (e % s.cfg.B) = w.toNat % 2 ^ s.cfg.rawBits ∧
      KeepsMemBut (fun a => rawBase + 4 * e ≤ a ∧ a < rawBase + 4 * e + 4) s t := by
  have hentry : rawAddr s.cfg (e / s.cfg.B) (e % s.cfg.B) = rawBase + 4 * e := by
    rw [rawAddr, Nat.div_add_mod']
  refine ⟨_, rfl, (onlyMem_writeWord s _ _).eq_of_evt (writeRaw_evt ..), ?_, writeRaw_frame s _ w⟩
  rw [readRaw, writeRaw_cfg, hentry, rawCode_writeRaw, rawCode]

/-- Settles O54, by whether `blk_req = 1` and the index is in range. -/
theorem producerWriteIsStoredOrDropped : Obligations.ProducerWriteIsStoredOrDropped := by
  intro s e w _
  rw [← blkReq_eq]
  rcases producerWrite_cases s e w with ⟨hreq, he, heq⟩ | ⟨hdrop, heq⟩
  · obtain ⟨t, ht, hstored⟩ := writeRaw_stored s e w
    exact ⟨fun _ => ⟨t, congrArg Host.Outcome.next (heq.trans ht), hstored⟩,
      fun hdrop => absurd ⟨hreq, he⟩ hdrop⟩
  · exact ⟨fun hstored => absurd hstored hdrop, fun _ => congrArg Host.Outcome.next heq⟩

/-! ### The sequencer's turn, state by state (R188) -/

theorem sequencerTurn_of_init {s : State} (hf : s.fsm = .init) :
    sequencerTurn s = .next (finishInit s) := by
  rw [sequencerTurn, hf]

theorem sequencerTurn_of_command {s : State} {w : Word} {i : Instr}
    (hf : s.fsm = .busy (.command w)) (hd : decode s.cfg w = some i) :
    sequencerTurn s = exec i s := by
  simp only [sequencerTurn, hf, completeCommand, hd]

theorem sequencerTurn_of_autoblock {s : State} (hf : s.fsm = .busy .autoblock) :
    sequencerTurn s = exec .block s := by
  rw [sequencerTurn, hf]; rfl

theorem sequencerTurn_of_pending {s : State} (hf : s.fsm = .idle) (ha : s.auto = true)
    (hp : s.pending = true) : sequencerTurn s = .next (startBlock s) := by
  simp only [sequencerTurn, hf, ha, hp, and_self, if_true]

theorem sequencerTurn_of_quiescent {s : State} (h : quiescent s = true) :
    sequencerTurn s = .next s := by
  obtain ⟨hf, hno⟩ := (quiescent_eq s).1 h
  simp only [sequencerTurn, hf, if_neg hno]

/-- Settles O55: the cases of `blk_done`, and the sequencer's turns around an automatic block. -/
theorem automaticBlockRunsFromDoneToCompletion :
    Obligations.AutomaticBlockRunsFromDoneToCompletion := by
  refine ⟨fun s hreq => ?_, fun s hreq => ?_, fun s => sequencerTurn_of_pending,
    fun s => sequencerTurn_of_autoblock, fun s hf ha => ?_⟩
  · rw [← blkReq_eq] at hreq
    rw [takeEvent, producerDone, if_pos hreq]
  · rw [← blkReq_eq] at hreq
    rw [takeEvent, producerDone, if_neg hreq]
    rfl
  · exact sequencerTurn_of_quiescent ((quiescent_eq s).2 ⟨hf, by simp [ha]⟩)

/-! ### Every step gives a next state (R200, R210) -/

theorem exec_next (i : Instr) (s : State) : ∃ t, exec i s = .next t :=
  (exec_cases i s).elim (fun h => ⟨_, h⟩) fun h => ⟨_, h⟩

theorem sequencerTurn_next (s : State) : ∃ t, sequencerTurn s = .next t := by
  rcases sequencerTurn_cases s with ⟨-, e⟩ | ⟨_, i, -, -, e⟩ | ⟨_, -, -, e⟩ | ⟨-, e⟩ | ⟨-, -, -, e⟩ |
    ⟨-, -, e⟩
  case inr.inl => exact e ▸ exec_next i s
  all_goals exact ⟨_, e⟩

theorem takeEvent_next (e : Event) (s : State) : ∃ t, takeEvent e s = .next t := by
  cases e with
  | sequencer => exact sequencerTurn_next s
  | hostWrite | hostRead | rawWrite | blkDone | hardReset => exact ⟨_, rfl⟩

/-- Settles O34, by the agent whose step it is. -/
theorem everyStepGivesANextState : Obligations.EveryStepGivesANextState := by
  intro s
  rcases step_cases s with ⟨-, e⟩ | ⟨ev, rest, -, e⟩ <;> rw [e]
  · exact sequencerTurn_next s
  · exact takeEvent_next ev _

/-! ### The taking and the completion of a command (R196 to R199) -/

theorem step_of_empty {s : State} (h : s.schedule = []) : step s = sequencerTurn s := by
  rw [step, h]

/-- The sequencer's turn at the head of the schedule completes the command it holds. -/
theorem step_of_turn {s : State} {w : Word} {i : Instr} {rest : List Event}
    (hsched : s.schedule = .sequencer :: rest) (hf : s.fsm = .busy (.command w))
    (hd : decode s.cfg w = some i) : step s = exec i { s with schedule := rest } :=
  (step_of_schedule hsched).trans
    (sequencerTurn_of_command (s := { s with schedule := rest }) hf hd)

/-- Settles O33: the turn, with an empty schedule or at its head, completes the held command. -/
theorem stepRunsTheDecodedCommand : Obligations.StepRunsTheDecodedCommand := by
  refine ⟨fun s w i hf hd => ⟨fun hnil => ?_, fun rest hsched => step_of_turn hsched hf hd⟩,
    fun s w i hd => ?_⟩
  · rw [step_of_empty hnil, sequencerTurn_of_command hf hd]
  · have hword : BitVec.ofNat 32 (w.toNat % 2 ^ 32) = w := by
      rw [Nat.mod_eq_of_lt w.isLt, BitVec.ofNat_toNat, BitVec.setWidth_eq]
    rw [State.withFetchWord, hword]
    exact step_of_turn rfl rfl hd

theorem hostWrite_cmd {a : HostAddr} (ha : a.toNat / 4 = 3) (s : State) (w : Word) :
    hostWrite s a w = writeCmd s w :=
  hostWrite_ctl (r := .cmd) ⟨by omega, by rw [ha]; rfl⟩ s w

/-- Settles O38: each case of `writeCmd` meets one clause and excludes the other two. -/
theorem cmdWriteIsTakenRejectedOrDropped : Obligations.CmdWriteIsTakenRejectedOrDropped := by
  intro s a w ha
  rw [hostWrite_cmd ha]
  rcases writeCmd_cases s w with ⟨hf, hauto, ⟨i, hi⟩, e⟩ | ⟨hf, hauto, hnone, e⟩ | ⟨hdrop, e⟩
  · exact ⟨fun _ _ _ => e, fun _ _ hnone => by simp [hi] at hnone, fun h => absurd ⟨hf, hauto⟩ h⟩
  · refine ⟨fun _ _ hsome => by simp [hnone] at hsome, fun _ _ _ => ?_,
      fun h => absurd ⟨hf, hauto⟩ h⟩
    rw [e, rejectIllegal, ← hf]
  · exact ⟨fun hf hauto => absurd ⟨hf, hauto⟩ hdrop, fun hf hauto => absurd ⟨hf, hauto⟩ hdrop,
      fun _ => e⟩

/-- A run goes on from the state its first step gives. -/
theorem run_of_step {s t : State} (h : step s = .next t) (k : Nat) :
    Host.Core.run Sys2Proof.core (k + 1) s = Host.Core.run Sys2Proof.core k t := by
  have hstep : Sys2Proof.core.step s = .next t := h
  simp only [Host.Core.run, hstep]

theorem run_one (s : State) : Host.Core.run Sys2Proof.core 1 s = step s := by
  obtain ⟨t, ht⟩ := everyStepGivesANextState s
  rw [run_of_step ht, ht]
  rfl

/-- In IDLE with `AUTO = 0` the host's write of a legal word to CMD is accepted. -/
theorem step_of_legal_cmd {s : State} {w : Word} {i : Instr} {rest : List Event}
    (hsched : s.schedule = .hostWrite 0x00000C w :: rest) (hf : s.fsm = .idle)
    (hauto : s.auto = false) (hd : decode s.cfg w = some i) : step s =
      .next { s with cmd := w, fsm := .busy (.command w), evt := 0, schedule := rest } := by
  obtain ⟨htaken, -⟩ :=
    cmdWriteIsTakenRejectedOrDropped { s with schedule := rest } 0x00000C w (by decide)
  exact (step_of_schedule hsched).trans
    (congrArg Host.Outcome.next (htaken hf hauto (Option.isSome_of_eq_some hd)))

/-- Settles O39: O38's accept, then O33's completion. -/
theorem acceptThenCompleteRunsTheCommand : Obligations.AcceptThenCompleteRunsTheCommand := by
  intro s w i rest hf hauto hd hsched
  rw [run_of_step (step_of_legal_cmd hsched hf hauto hd), run_one]
  exact step_of_turn
    (s := { s with cmd := w, fsm := .busy (.command w), evt := 0, schedule := .sequencer :: rest })
    rfl rfl hd

/-! ### Coming to rest (R201, R247) -/

/-- At most `n` steps lead to a quiescent state that the step leaves as it is. -/
def SettlesWithin (n : Nat) (s : State) : Prop :=
  ∃ k t, k ≤ n ∧ Host.Core.run Sys2Proof.core k s = .next t ∧ quiescent t = true ∧ step t = .next t

theorem settlesWithin_of_quiescent (n : Nat) {s : State} (hnil : s.schedule = [])
    (h : quiescent s = true) : SettlesWithin n s :=
  ⟨0, s, Nat.zero_le n, rfl, h, (step_of_empty hnil).trans (sequencerTurn_of_quiescent h)⟩

theorem SettlesWithin.of_turn {n : Nat} {s t : State} (h : SettlesWithin n t)
    (hnil : s.schedule = []) (ht : sequencerTurn s = .next t) : SettlesWithin (n + 1) s := by
  obtain ⟨k, u, hk, hrun, hrest⟩ := h
  exact ⟨k + 1, u, Nat.succ_le_succ hk, (run_of_step ((step_of_empty hnil).trans ht) k).trans hrun,
    hrest⟩

/-- A block that runs with none pending is the last step. -/
theorem settlesWithin_of_last_block {s : State} (hnil : s.schedule = [])
    (hf : s.fsm = .busy .autoblock) (hp : s.pending = false) : SettlesWithin 1 s := by
  have hresults := onlyResults_blockProcess s
  have hsched : (blockProcess s).schedule = [] := by rw [hresults]; exact hnil
  have hpend : (blockProcess s).pending = false := by rw [hresults]; exact hp
  refine SettlesWithin.of_turn ?_ hnil ((sequencerTurn_of_autoblock hf).trans (exec_block s))
  refine settlesWithin_of_quiescent 0 ((complete_schedule _).trans hsched) ?_
  exact (quiescent_eq _).2 ⟨complete_fsm _, by simp [hpend]⟩

/-- From IDLE at most a pending block is left: its start and its completion. -/
theorem settlesWithin_of_idle {s : State} (hnil : s.schedule = []) (hf : s.fsm = .idle) :
    SettlesWithin 2 s := by
  by_cases h : s.auto = true ∧ s.pending = true
  · refine SettlesWithin.of_turn ?_ hnil (sequencerTurn_of_pending hf h.1 h.2)
    exact settlesWithin_of_last_block hnil rfl rfl
  · exact settlesWithin_of_quiescent 2 hnil ((quiescent_eq s).2 ⟨hf, h⟩)

/-- A command ends in IDLE and adds nothing to the schedule. -/
theorem exec_idle (i : Instr) (s : State) :
    ∃ t, exec i s = .next t ∧ t.fsm = .idle ∧ t.schedule = s.schedule := by
  rcases exec_cases i s with e | e
  · have hsched : (effect s i).schedule = s.schedule := by rw [onlyResults_effect s i]
    exact ⟨_, e, complete_fsm _, (complete_schedule _).trans hsched⟩
  · exact ⟨_, e, rfl, rfl⟩

/-- Whatever the sequencer is doing, one turn ends it. -/
theorem sequencerTurn_idle {s : State} (hf : s.fsm ≠ .idle) :
    ∃ t, sequencerTurn s = .next t ∧ t.fsm = .idle ∧ t.schedule = s.schedule := by
  rcases sequencerTurn_cases s with ⟨-, e⟩ | ⟨_, i, -, -, e⟩ | ⟨_, -, -, e⟩ | ⟨hblock, -⟩ |
    ⟨hidle, -⟩ | ⟨hidle, -⟩
  · exact ⟨_, e, rfl, rfl⟩
  · exact e ▸ exec_idle i s
  · exact ⟨_, e, rfl, rfl⟩
  · exact sequencerTurn_of_autoblock hblock ▸ exec_idle .block s
  · exact absurd hidle hf
  · exact absurd hidle hf

/-- Settles O60: one turn to IDLE, and from there at most one pending block. -/
theorem sequencerBecomesQuiescent : Obligations.SequencerBecomesQuiescent := by
  intro s hnil
  by_cases hf : s.fsm = .idle
  · obtain ⟨k, t, hk, hrest⟩ := settlesWithin_of_idle hnil hf
    exact ⟨k, t, by omega, hrest⟩
  · obtain ⟨t, ht, hidle, hsched⟩ := sequencerTurn_idle hf
    exact (settlesWithin_of_idle (hsched.trans hnil) hidle).of_turn hnil ht

end Sys2Proof.Machine

/-! ## The `irq` output as a function of CTRL and STATUS (60_exceptions.md rule R213). -/

namespace Sys2Proof.Machine

/-- A flag of the set, read as the host reads it: at its bit of the STATUS word (R24). -/
theorem isIn_flags_eq_statusWord_bit (s : State) (f : Flag) :
    f.isIn s.flags = (statusWord s).getLsbD f.bit := by
  obtain ⟨-, -, -, -, hflag, -, -⟩ := statusWordLayout s
  exact (hflag f).symm

/-- `irq` by its two enables: IE passes DONE, IEE passes any of the error flags (R213). -/
theorem irq_iff (s : State) : irq s = true ↔
    (s.ie = true ∧ Flag.done.isIn s.flags = true) ∨
    (s.iee = true ∧ ∃ f ∈ errorFlags, f.isIn s.flags = true) := by
  simp only [irq, Bool.or_eq_true, Bool.and_eq_true, List.any_eq_true]

/-- Settles O56: the flags that drive `irq` are the STATUS bits 7 and 19 to 23. -/
theorem irqFollowsStatusAndEnables : Obligations.IrqFollowsStatusAndEnables := by
  intro s
  have hbit := isIn_flags_eq_statusWord_bit s
  rw [irq_iff, hbit .done]
  simp only [errorFlags, List.exists_mem_cons_iff, List.not_mem_nil, false_and, exists_false,
    or_false, hbit, Flag.bit]

end Sys2Proof.Machine

/-! ## Reset initialisation (70_reset_and_hazards.md rules R233, R234). -/

namespace Sys2Proof.Machine

/-- Initialisation unlists every DL cell, and an unlisted DL byte reads 0 (R233). -/
theorem readByte_finishInit_dl (s : State) {a : Nat} (h : inDl a = true) :
    readByte (finishInit s) a = 0#8 := by
  have hcell : cellAt (finishInit s).mem a = none := by
    rw [finishInit_mem, cellAt_filter s.mem (fun x => !inDl x)]
    simp only [h, Bool.not_true, Bool.false_eq_true, if_false]
  simp only [readByte, hcell, unlisted, h, if_true]

/-- Outside DL the listed cells stay, and so do the free contents of the present reset. -/
theorem readByte_finishInit_outside (s : State) {a : Nat} (h : inDl a = false) :
    readByte (finishInit s) a = readByte s a := by
  have hcell : cellAt (finishInit s).mem a = cellAt s.mem a := by
    rw [finishInit_mem, cellAt_filter s.mem (fun x => !inDl x)]
    simp only [h, Bool.not_false, if_true]
  simp only [readByte, hcell, finishInit_memSeed]

theorem readScaled_eq_zero {s : State} {a : Nat} (h : ∀ x, ScaledBytes a x → readByte s x = 0#8) :
    readScaled s a = Scaled.zero := by
  have h0 : readByte s a = 0#8 := h a ⟨by omega, by omega⟩
  have hbyte : ∀ k, k < 5 → readByte s (a + k) = 0#8 := fun k hk => h _ ⟨by omega, by omega⟩
  simp only [readScaled, readWord, h0, hbyte 1 (by omega), hbyte 2 (by omega), hbyte 3 (by omega),
    hbyte 4 (by omega)]
  rfl

/-- Every storage byte of a DL entry is in the DL region: OUT begins above the last (R9, R62). -/
theorem inDl_of_dlEntry {cfg : Config} {ch j a : Nat} (hlegal : cfg.Legal) (hch : ch < cfg.C)
    (hj : j < cfg.T) (ha : ScaledBytes (dlAddr cfg ch j) a) : inDl a = true := by
  obtain ⟨-, -, -, -, hCT, -⟩ := hlegal
  obtain ⟨hlo, hhi⟩ := ha
  have he := entryIndex_lt hch hj
  rw [dlAddr, dlBase] at hlo hhi
  exact (inDl_iff a).2 ⟨by omega, by omega⟩

/-- Settles O53: the sequencer's turn in INIT is `finishInit`. -/
theorem initialisationClearsTheDelayLines : Obligations.InitialisationClearsTheDelayLines := by
  intro s hlegal hf
  refine ⟨finishInit s, sequencerTurn_of_init hf, rfl, rfl, rfl, fun ch j hch hj => ?cleared,
    fun a houtside => ?frame⟩
  case cleared =>
    exact readScaled_eq_zero fun x hx =>
      readByte_finishInit_dl s (inDl_of_dlEntry hlegal hch hj hx)
  case frame =>
    have hout : inDl a = false := Bool.eq_false_iff.2 fun hin => houtside ((inDl_iff a).1 hin)
    exact readByte_finishInit_outside s hout

end Sys2Proof.Machine
